-- ==== Sys2Proof/Word.lean ====
section
/-! DEFINITION. The words of the block: the byte (rule R6), and the 32-bit command word (rule R90). -/

namespace Sys2Proof

/-- A byte: 8 bits, an unsigned value 0 to 255 (rule R6). -/
abbrev Byte := BitVec 8

/-- A command word: one 32-bit word written to `CMD` (rule R90). -/
abbrev Word := BitVec 32

end Sys2Proof
end

