-- ==== Sys2Proof/Syntax.lean ====
section
/-! DEFINITION. The 22 commands of the opcode map (rule R92, spec/opcode_table.json), one constructor per row. -/

namespace Sys2Proof

/-- A command. Format N commands have no operand; a format C command carries its operand byte `A`, whose low two
bits are the channel (rule R91; `Instr.wf` says that `A[7:2]` is 0); the format S command carries the symbol. -/
inductive Instr where
  | nop
  | compress
  | decompress
  | clr
  | filtFwd (c : Byte)
  | filtInv (c : Byte)
  | hist
  | huff
  | canon
  | pkInit
  | pkPut (s : Byte)
  | pkFin
  | pack
  | upInit
  | upBit
  | trie
  | trSym
  | dec
  | hdrWr
  | chnWr
  | hdrRd
  | chnRd
  deriving DecidableEq, Repr

end Sys2Proof
end

