-- ==== Sys2Proof/WellFormed.lean ====
section
/-! DEFINITION. Which instructions an encoding exists for: a channel operand fits its two bits (rule R91). -/

namespace Sys2Proof

/-- Rule R91, format C: "`A[1:0]` is the channel index `c`, 0 to 3, and `A[7:2]` must be 0". Format N has no
operand and in format S every operand byte is legal, so nothing else is checked. -/
def Instr.wf : Instr → Bool
  | .filtFwd c => c.toNat < 4
  | .filtInv c => c.toNat < 4
  | .pkPut _ => true
  | .nop => true
  | .compress => true
  | .decompress => true
  | .clr => true
  | .hist => true
  | .huff => true
  | .canon => true
  | .pkInit => true
  | .pkFin => true
  | .pack => true
  | .upInit => true
  | .upBit => true
  | .trie => true
  | .trSym => true
  | .dec => true
  | .hdrWr => true
  | .chnWr => true
  | .hdrRd => true
  | .chnRd => true

end Sys2Proof
end

