-- ==== Sys2Proof/Decode.lean ====
section
/-! DEFINITION. The decoder of command words (rules R90 to R94), total, rejecting by name, and the encoder. -/

namespace Sys2Proof

/-- `OP = word[7:0]` (rule R90). -/
def opField (w : Word) : Byte := w.extractLsb' 0 8

/-- `A = word[15:8]` (rule R90). -/
def operandField (w : Word) : Byte := w.extractLsb' 8 8

/-- `word[31:16]`, reserved, must be zero (rule R90). -/
def reservedField (w : Word) : BitVec 16 := w.extractLsb' 16 16

/-- The three operand formats of rule R91. -/
inductive Format where
  /-- no operand, `A` must be 0 -/
  | n
  /-- channel operand, `A[7:2]` must be 0 -/
  | c
  /-- symbol operand, every `A` legal -/
  | s
  deriving DecidableEq, Repr

/-- Whether an operand byte is legal for a format (rule R91). -/
def Format.admits (f : Format) (a : Byte) : Bool :=
  match f with
  | .n => a == 0
  | .c => a.extractLsb' 2 6 == 0
  | .s => true

/-- The opcode map of rule R92: the format of an `OP` value and the command it stands for, given the operand byte.
`none` is a reserved opcode (rule R94 (a)). -/
def opcodeMap (op : Byte) : Option (Format × (Byte → Instr)) :=
  match op.toNat with
  | 0x00 => some (.n, fun _ => .nop)
  | 0x01 => some (.n, fun _ => .compress)
  | 0x02 => some (.n, fun _ => .decompress)
  | 0x03 => some (.n, fun _ => .clr)
  | 0x10 => some (.c, .filtFwd)
  | 0x11 => some (.c, .filtInv)
  | 0x20 => some (.n, fun _ => .hist)
  | 0x30 => some (.n, fun _ => .huff)
  | 0x40 => some (.n, fun _ => .canon)
  | 0x50 => some (.n, fun _ => .pkInit)
  | 0x51 => some (.s, .pkPut)
  | 0x52 => some (.n, fun _ => .pkFin)
  | 0x53 => some (.n, fun _ => .pack)
  | 0x58 => some (.n, fun _ => .upInit)
  | 0x59 => some (.n, fun _ => .upBit)
  | 0x60 => some (.n, fun _ => .trie)
  | 0x61 => some (.n, fun _ => .trSym)
  | 0x62 => some (.n, fun _ => .dec)
  | 0x70 => some (.n, fun _ => .hdrWr)
  | 0x71 => some (.n, fun _ => .chnWr)
  | 0x72 => some (.n, fun _ => .hdrRd)
  | 0x73 => some (.n, fun _ => .chnRd)
  | _ => none

/-- Why a word is no command (rule R94). -/
inductive DecodeError where
  /-- rule R94 (a): the `OP` value is not in the opcode map -/
  | reservedOpcode
  /-- rule R94 (b): a legal `OP` with a must-be-zero bit set -/
  | reservedBits
  deriving DecidableEq, Repr

/-- The decoder. Rule R94 (c): when both faults apply, the reserved opcode is reported. -/
def decode (w : Word) : Except DecodeError Instr :=
  match opcodeMap (opField w) with
  | none => .error .reservedOpcode
  | some (f, mk) =>
    if reservedField w == 0 && f.admits (operandField w) then .ok (mk (operandField w)) else .error .reservedBits

/-- The `OP` value of a command (rule R92). -/
def Instr.op : Instr → Byte
  | .nop => 0x00
  | .compress => 0x01
  | .decompress => 0x02
  | .clr => 0x03
  | .filtFwd _ => 0x10
  | .filtInv _ => 0x11
  | .hist => 0x20
  | .huff => 0x30
  | .canon => 0x40
  | .pkInit => 0x50
  | .pkPut _ => 0x51
  | .pkFin => 0x52
  | .pack => 0x53
  | .upInit => 0x58
  | .upBit => 0x59
  | .trie => 0x60
  | .trSym => 0x61
  | .dec => 0x62
  | .hdrWr => 0x70
  | .chnWr => 0x71
  | .hdrRd => 0x72
  | .chnRd => 0x73

/-- The operand byte of a command: 0 where it has none (rule R91). -/
def Instr.operand : Instr → Byte
  | .filtFwd c => c
  | .filtInv c => c
  | .pkPut s => s
  | .nop => 0
  | .compress => 0
  | .decompress => 0
  | .clr => 0
  | .hist => 0
  | .huff => 0
  | .canon => 0
  | .pkInit => 0
  | .pkFin => 0
  | .pack => 0
  | .upInit => 0
  | .upBit => 0
  | .trie => 0
  | .trSym => 0
  | .dec => 0
  | .hdrWr => 0
  | .chnWr => 0
  | .hdrRd => 0
  | .chnRd => 0

/-- The word of a command: reserved zero, `A`, `OP` (rule R90). -/
def encode (i : Instr) : Word := (0 : BitVec 16) ++ i.operand ++ i.op

/-- The decoder on a word given as a number whose bits from `nbits` up are taken as 0, bit 0 the least significant
(spec/opcode_table.json; a command is one 32-bit register write, so no byte order comes in). -/
def decodeTableWord (nbits w : Nat) : Option Instr :=
  match decode (BitVec.ofNat 32 (w % 2 ^ nbits)) with
  | .ok i => some i
  | .error _ => none

end Sys2Proof
end

