-- ==== Sys2Proof/Config.lean ====
section
/-! DEFINITION. What an implementation fixes (rule R5: `MAGIC`, the four capacities), the fixed constants of
rule R5, and the free values of 93_implementation_defined U3 and U4. -/

namespace Sys2Proof

/-- The named parameters of rule R5. A capacity is a number of bytes, or `none` for "unbounded".
The state carries one value of this type, which no step writes (log 3). -/
structure Params where
  magic0  : Byte
  magic1  : Byte
  magic2  : Byte
  imgCap  : Option Nat
  contCap : Option Nat
  resCap  : Option Nat
  payCap  : Option Nat
  deriving DecidableEq, Repr

/-- The column "default for vectors" of rule R5. DESIGN CHOICE (log 3): the parameters are OPEN; these values are
the spec's placeholder, and only `State.reset` uses them. -/
def Params.default : Params :=
  { magic0 := 0x49, magic1 := 0x4D, magic2 := 0x4B, imgCap := none, contCap := none, resCap := none, payCap := none }

/-- `NOCH`, the "no channel" value of `ERR_CH` and `curch` (rule R5). -/
abbrev NOCH : BitVec 2 := 3

/-- `ABSENT`, the trie child sentinel (rules R5, R176). -/
abbrev ABSENT : BitVec 16 := 0xFFFF

/-- `NONE`, the trie "no symbol" mark (rules R5, R176). -/
abbrev NONE : BitVec 9 := 0x100

/-- FREE VALUE (rule R46, 93_implementation_defined U3: `any value`; log 4). The byte that a cell of a byte memory holds
after the memory became unspecified and before the cell is written: a constant of the space number, of how
often that memory became unspecified, and of the index. Nothing is known of it. -/
opaque Config.unspecifiedByte : Nat → Nat → Nat → Byte

/-- FREE VALUE (rule R67, 93_implementation_defined U4: `any value`; log 5). What the n-th host read that finds the block
BUSY returns, for a space and an index, when it is not a read of `STATUS`. -/
opaque Config.busyRead : Nat → Nat → Nat → Nat

end Sys2Proof
end

