-- ==== Sys2Proof/Machine/State.lean ====
section
/-! DEFINITION. The state of the block as plain data (10_state), the error causes (60_exceptions), the outcomes' reason
types, and the state after reset (rule R49). -/

namespace Sys2Proof.Machine

/-- `STATUS.STATE` (rule R23). -/
inductive Phase where
  /-- 0: no command has completed since reset or `CLR` -/
  | idle
  /-- 1: a command is executing -/
  | busy
  /-- 2: the last command completed without error -/
  | done
  /-- 3: the last command raised an error; sticky -/
  | error
  deriving DecidableEq, Repr

/-- The causes of an error (rules R231 to R236, R238), in the order of their numbers. -/
inductive Cause where
  | badMagic | zeroWidth | zeroHeight | badChannels | badLengthTable
  | hdrMagic | hdrWidth | hdrHeight | hdrMaxval | hdrChannels | lengths | payloadCount | payload | streamExhausted
  | depth | channels | empty | payloadTooLarge
  | corruptCodePath
  | sizeMismatch | noCode
  | reservedOpcode | reservedBits | badChannel
  | capImg | capCont | capRes | capPay
  deriving DecidableEq, Repr

/-- The error classes of the commands (rule R96, last column): `e` touches ephemeral banks only, `cw` is
container-writing, `iw` image-writing. -/
inductive ErrClass where
  | e | cw | iw
  deriving DecidableEq, Repr

/-- What `raise Kind(CAUSE, pos)` is given (rule R240): the cause, the position, and the value of `curch` at the
point of failure. The kind is the high nibble of the cause (rule R237). -/
structure Raise where
  cause : Cause
  pos   : Nat
  ch    : BitVec 2
  deriving DecidableEq, Repr

/-- A byte memory (rules R30 to R32, R36): the cells written since its contents last became unspecified, the index
strictly rising; `epoch` counts how often that happened and, with the space number of rule R43, picks the free
values of the other cells (log 4). -/
structure Memory where
  space : Nat
  epoch : Nat
  cells : List Host.Cell
  deriving DecidableEq, Repr

/-- The `IMG` descriptor (rule R29). -/
structure Desc where
  width    : BitVec 32
  height   : BitVec 32
  maxval   : BitVec 16
  channels : BitVec 8
  depth    : BitVec 8
  deriving DecidableEq, Repr

/-- The `TBL` bank, the canonical Huffman table (rule R35). -/
structure Table where
  len    : Vector (BitVec 8) 256
  code   : Vector (BitVec 255) 256
  maxLen : BitVec 8
  deriving DecidableEq, Repr

/-- One node of the decode trie: `T_C0[i]`, `T_C1[i]`, `T_SYM[i]` (rule R39). -/
structure TrieNode where
  c0  : BitVec 16
  c1  : BitVec 16
  sym : BitVec 9
  deriving DecidableEq, Repr

/-- What the host does, in the order it does it (rules R64 to R67, R95, R260). `wait` is the host's polling of
`STATUS` until the command in execution has ended (rule R267); a command in execution ends no later than there. -/
inductive HostEvent where
  | read (space index : Nat)
  | write (space index value : Nat)
  | wait
  | reset
  deriving DecidableEq, Repr

/-- The state of the block. The last four fields are the model's own (logs 1, 2, 5). -/
structure State where
  /-- the parameters of rule R5; no step writes them -/
  cfg : Params
  /-- `STATUS.STATE`, rule R23 -/
  status : Phase
  /-- `ERR_KIND`, rule R24 -/
  errKind : BitVec 4
  /-- `ERR_CAUSE`, rule R24 -/
  errCause : BitVec 8
  /-- `ERR_CH`, rule R24 -/
  errCh : BitVec 2
  /-- `ERR_POS`, rule R25 -/
  errPos : BitVec 64
  /-- `RESULT`, rule R26 -/
  result : BitVec 32
  /-- `CPOS`, rule R27 -/
  cpos : BitVec 64
  /-- `curch`, rule R41 -/
  curch : BitVec 2
  /-- the `IMG` descriptor, rule R29 -/
  desc : Desc
  /-- `IMGMEM`, rule R30 -/
  img : Memory
  /-- `CONT_LEN`, rule R31 -/
  contLen : BitVec 64
  /-- `CONTMEM`, rule R31 -/
  cont : Memory
  /-- `RES_N`, rule R32 -/
  resN : BitVec 64
  /-- `RESMEM`, rule R32 -/
  res : Memory
  /-- `FREQ`, rule R33 -/
  freq : Vector (BitVec 64) 256
  /-- `LEN`, rule R34 -/
  len : Vector (BitVec 8) 256
  /-- `TBL`, rule R35 -/
  tbl : Table
  /-- `PAY_LEN`, rule R36 -/
  payLen : BitVec 64
  /-- `PAYMEM`, rule R36 -/
  pay : Memory
  /-- `PK_ACC`, rule R37 -/
  pkAcc : BitVec 8
  /-- `PK_NB`, rule R37 -/
  pkNb : BitVec 3
  /-- `UP_POS`, rule R38 -/
  upPos : BitVec 64
  /-- `UP_BIT`, rule R38 -/
  upBit : BitVec 3
  /-- the `TRIE` bank, rule R39; `T_N` is the length of the list -/
  trie : List TrieNode
  /-- MODEL: what the host does next -/
  port : List HostEvent
  /-- MODEL: the accepted command word while the block is BUSY between two steps -/
  running : Option Word
  /-- MODEL: the value the last host read returned -/
  portData : Nat
  /-- MODEL: the counter of the free values returned by host reads under BUSY -/
  busyReads : Nat
  deriving DecidableEq, Repr

/-- The reasons a step can stop with a fault: none. Every host action and every command on every state has a defined
result (rules R266, R270, R272), so the type is empty. -/
inductive Fault where
  deriving DecidableEq, Repr

/-- The reasons the model gives an instruction no meaning. -/
inductive Refusal where
  /-- Raised only by an arm of `exec` for an instruction the model does not reach yet (none now). Safe: the model
  stops where the hardware goes on. -/
  | notModelled (mnemonic : String)
  deriving DecidableEq, Repr

/-- A trie node as `NewNode()` makes it (rule R176): no child, no mark. -/
def TrieNode.fresh : TrieNode := { c0 := ABSENT, c1 := ABSENT, sym := NONE }

/-- The empty canonical table (rule R49). -/
def Table.zero : Table := { len := Vector.replicate 256 0, code := Vector.replicate 256 0, maxLen := 0 }

/-- The all-zero descriptor (rules R49, R240). -/
def Desc.zero : Desc := { width := 0, height := 0, maxval := 0, channels := 0, depth := 0 }

/-- A byte memory of which no cell is determined. -/
def Memory.unspecified (space epoch : Nat) : Memory := { space := space, epoch := epoch, cells := [] }

/-- The state after reset for given parameters: the table of rule R49. -/
def State.resetWith (p : Params) : State :=
  { cfg := p
    status := .idle, errKind := 0, errCause := 0, errCh := 0, errPos := 0, result := 0, cpos := 0, curch := NOCH
    desc := Desc.zero, img := .unspecified 1 0, contLen := 0, cont := .unspecified 2 0
    resN := 0, res := .unspecified 3 0
    freq := Vector.replicate 256 0, len := Vector.replicate 256 0, tbl := Table.zero
    payLen := 0, pay := .unspecified 4 0, pkAcc := 0, pkNb := 0, upPos := 0, upBit := 0
    trie := [TrieNode.fresh]
    port := [], running := none, portData := 0, busyReads := 0 }

/-- The state after reset with the default parameters of rule R5 (log 3). -/
def State.reset : State := State.resetWith Params.default

end Sys2Proof.Machine
end

