-- ==== Sys2Proof/Machine/Flags.lean ====
section
/-! DEFINITION. The one flag of the block and the error record as words: `STATUS` (rule R23), `ERR` (rule R24), the
numbers of the error causes and kinds (rules R231 to R238). -/

namespace Sys2Proof.Machine

/-- The number of a state of `STATUS.STATE` (rule R23). -/
def Phase.code : Phase → BitVec 2
  | .idle => 0
  | .busy => 1
  | .done => 2
  | .error => 3

/-- The number of a cause (rules R231 to R236, R238). -/
def Cause.code : Cause → BitVec 8
  | .badMagic => 0x10
  | .zeroWidth => 0x11
  | .zeroHeight => 0x12
  | .badChannels => 0x13
  | .badLengthTable => 0x14
  | .hdrMagic => 0x20
  | .hdrWidth => 0x21
  | .hdrHeight => 0x22
  | .hdrMaxval => 0x23
  | .hdrChannels => 0x24
  | .lengths => 0x25
  | .payloadCount => 0x26
  | .payload => 0x27
  | .streamExhausted => 0x28
  | .depth => 0x30
  | .channels => 0x31
  | .empty => 0x32
  | .payloadTooLarge => 0x33
  | .corruptCodePath => 0x40
  | .sizeMismatch => 0x50
  | .noCode => 0x51
  | .reservedOpcode => 0x60
  | .reservedBits => 0x61
  | .badChannel => 0x62
  | .capImg => 0x70
  | .capCont => 0x71
  | .capRes => 0x72
  | .capPay => 0x73

/-- The kind of a cause: "`ERR_CAUSE` is an 8-bit number whose high nibble repeats the kind" (rule R237). -/
def Cause.kind (c : Cause) : BitVec 4 := c.code.extractLsb' 4 4

/-- `STATUS` as a word (rule R23): `STATE` in bits 1:0, the rest 0. -/
def State.statusWord (s : State) : BitVec 32 := (0 : BitVec 30) ++ s.status.code

/-- `ERR` as a word (rule R24): `ERR_KIND` in 3:0, `ERR_CAUSE` in 15:8, `ERR_CH` in 17:16, the rest 0. -/
def State.errWord (s : State) : BitVec 32 :=
  (0 : BitVec 14) ++ s.errCh ++ s.errCause ++ (0 : BitVec 4) ++ s.errKind

end Sys2Proof.Machine
end

