-- ==== Sys2Proof/Machine/Ops.lean ====
section
/-! DEFINITION. The operations every command is written over: byte memories, `ResetEphemeral()` (rule R48), `raise`
(rule R240) and the return from it (rule R221), the end of a command, the container cursor (rules R70, R71),
hardware reset (rule R260). -/

namespace Sys2Proof.Machine

/-! ## Byte memories -/

/-- The byte a cell of the memory holds: what was written, or the free value of rule R46 (log 4). -/
def Memory.read (m : Memory) (a : Nat) : Byte :=
  (m.cells.lookup a).getD (Config.unspecifiedByte m.space m.epoch a)

/-- Writing a cell in a list of cells whose indices rise strictly. -/
def insertCell : List Host.Cell → Nat → Byte → List Host.Cell
  | [], a, b => [(a, b)]
  | (k, v) :: cs, a, b =>
    if a < k then (a, b) :: (k, v) :: cs else if a = k then (a, b) :: cs else (k, v) :: insertCell cs a b

/-- `MEM[a] <- b`. -/
def Memory.write (m : Memory) (a : Nat) (b : Byte) : Memory := { m with cells := insertCell m.cells a b }

/-- `MEM[a] <- b` for each listed pair, in order. -/
def Memory.writeAll (m : Memory) : List (Nat × Byte) → Memory
  | [] => m
  | (a, b) :: rest => (m.write a b).writeAll rest

/-- `for i: MEM[a + i] <- bs[i]`. -/
def Memory.writeBytes (m : Memory) (a : Nat) : List Byte → Memory
  | [] => m
  | b :: bs => (m.write a b).writeBytes (a + 1) bs

/-- `[MEM[a], ..., MEM[a + n - 1]]`. -/
def Memory.readBytes (m : Memory) (a n : Nat) : List Byte := (List.range n).map fun i => m.read (a + i)

/-- "the content of the whole memory" becomes "unspecified" (rule R46): no cell is determined and the free values are
fresh ones (log 4). -/
def Memory.scramble (m : Memory) : Memory := .unspecified m.space (m.epoch + 1)

/-- The canonical form of a byte memory: the listed indices rise strictly. (No listed entry can equal what an unlisted
index holds, since that is no determined byte.) -/
abbrev Memory.wf (m : Memory) : Prop := (m.cells.map Prod.fst).Pairwise (· < ·)

/-- Whether a size or an end index `n` is above a capacity (rule R80); unbounded capacity never is. -/
def overCap (cap : Option Nat) (n : Nat) : Bool :=
  match cap with
  | none => false
  | some k => k < n

/-! ## Clearing, raising, ending a command -/

/-- `ResetEphemeral()` (rule R48). -/
def resetEphemeral (s : State) : State :=
  { s with
    resN := 0, res := s.res.scramble
    freq := Vector.replicate 256 0, len := Vector.replicate 256 0, tbl := Table.zero
    payLen := 0, pay := s.pay.scramble, pkAcc := 0, pkNb := 0, upPos := 0, upBit := 0
    trie := [TrieNode.fresh] }

/-- What a `raise` at this point of the pseudocode records: the cause, the position and `curch` (rule R240). -/
def State.failure (s : State) (c : Cause) (pos : Nat) : Raise := { cause := c, pos := pos, ch := s.curch }

/-- The part of `raise` that depends on the command's class (rule R240): a container-writing command leaves
`CONT_LEN = 0` and `CONTMEM` unspecified, an image-writing command an all-zero descriptor and `IMGMEM` unspecified. -/
def invalidateOutput (cls : ErrClass) (s : State) : State :=
  match cls with
  | .e => s
  | .cw => { s with contLen := 0, cont := s.cont.scramble }
  | .iw => { s with desc := Desc.zero, img := s.img.scramble }

/-- `raise Kind(CAUSE, pos)` (rule R240), the block's only exception entry, applied to the state the command
started from: rule R243 says the state after an error is "a function of the error alone and of the untouched
banks, never of how far the command had got" (log 8). -/
def raise (cls : ErrClass) (r : Raise) (s : State) : State :=
  invalidateOutput cls
    { resetEphemeral s with
      errKind := r.cause.kind, errCause := r.cause.code, errCh := r.ch, errPos := BitVec.ofNat 64 r.pos
      cpos := 0, curch := NOCH, status := .error }

/-- The return from an error (rules R221, R244): what `CLR` does. -/
def clearError (s : State) : State :=
  { resetEphemeral s with
    errKind := 0, errCause := 0, errCh := 0, errPos := 0, result := 0, cpos := 0, curch := NOCH, status := .idle }

/-- The successful end of a command: `curch <- NOCH; STATE <- DONE` (rules R41, R93). -/
def complete (s : State) : State := { s with curch := NOCH, status := .done }

/-- How a command ends (rule R93): completed, or with a raise of its class. -/
def endCommand (cls : ErrClass) (s : State) (r : Except Raise State) : State :=
  match r with
  | .ok t => complete t
  | .error e => raise cls e s

/-- Hardware reset (rules R49, R260): every register at its reset value, all four memories unspecified. What the
host does next and the model's own counters are not the block's and stay (log 10). -/
def hardwareReset (s : State) : State :=
  { State.resetWith s.cfg with
    img := s.img.scramble, cont := s.cont.scramble, res := s.res.scramble, pay := s.pay.scramble
    port := s.port, portData := s.portData, busyReads := s.busyReads }

/-! ## The container cursor -/

/-- `ContRead(n, CAUSE)` (rule R70): the next `n` bytes of the container, or `TruncatedInputError` with nothing read. -/
def contRead (n : Nat) (c : Cause) (s : State) : Except Raise (List Byte × State) :=
  if s.contLen.toNat < s.cpos.toNat + n then .error (s.failure c s.cpos.toNat)
  else .ok (s.cont.readBytes s.cpos.toNat n, { s with cpos := s.cpos + BitVec.ofNat 64 n })

/-- `ContWrite(b)` (rule R71): the bytes go to the cursor, or `CapacityError` (`CONT`) with nothing written. -/
def contWrite (bs : List Byte) (s : State) : Except Raise State :=
  if overCap s.cfg.contCap (s.cpos.toNat + bs.length) || 2 ^ 64 - 1 < s.cpos.toNat + bs.length then
    .error (s.failure .capCont s.cpos.toNat)
  else
    .ok { s with cont := s.cont.writeBytes s.cpos.toNat bs, cpos := s.cpos + BitVec.ofNat 64 bs.length }

end Sys2Proof.Machine
end

