-- ==== Sys2Proof/Machine/Operands.lean ====
section
/-! DEFINITION. How commands find their operands: the field codecs (rule R62), the sample address (rule R68), the check
of the image descriptor (rule R190) and the input capacity checks (rule R80). -/

namespace Sys2Proof.Machine

/-- `LE16(v)` (rule R62). -/
def le16 (v : BitVec 16) : List Byte := [v.extractLsb' 0 8, v.extractLsb' 8 8]

/-- `LE32(v)` (rule R62). -/
def le32 (v : BitVec 32) : List Byte :=
  [v.extractLsb' 0 8, v.extractLsb' 8 8, v.extractLsb' 16 8, v.extractLsb' 24 8]

/-- `U16LE`, `U32LE` (rule R62): the number a little-endian byte sequence stands for. -/
def uLE : List Byte → Nat
  | [] => 0
  | b :: bs => b.toNat + 256 * uLE bs

/-- `W`, `H`, `C` as `ValidateImage()` yields them (rule R190). -/
structure Dims where
  w : Nat
  h : Nat
  c : Nat
  deriving DecidableEq, Repr

/-- `N = W * H` (rule R190), exact (rule R9). -/
def Dims.n (d : Dims) : Nat := d.w * d.h

/-- `Sample(c, y, x) = (y * W + x) * C + c` (rule R68). -/
def Dims.sample (d : Dims) (c y x : Nat) : Nat := (y * d.w + x) * d.c + c

/-- The dimensions the descriptor declares. -/
def Desc.dims (d : Desc) : Dims := { w := d.width.toNat, h := d.height.toNat, c := d.channels.toNat }

/-- `ValidateImage()` (rule R190): `DEPTH`, `CHANNELS`, `EMPTY`, then capacity `IMG`. -/
def validateImage (s : State) : Except Raise Dims :=
  if s.desc.depth ≠ 8 then .error (s.failure .depth s.desc.depth.toNat)
  else if s.desc.channels ≠ 1 ∧ s.desc.channels ≠ 3 then .error (s.failure .channels s.desc.channels.toNat)
  else if s.desc.width = 0 ∨ s.desc.height = 0 then .error (s.failure .empty 0)
  else if overCap s.cfg.imgCap (s.desc.dims.n * s.desc.dims.c) then
    .error (s.failure .capImg (s.desc.dims.n * s.desc.dims.c))
  else .ok s.desc.dims

/-- The input check of a command that reads `RESMEM` (rule R80). -/
def checkRes (s : State) : Except Raise Unit :=
  if overCap s.cfg.resCap s.resN.toNat then .error (s.failure .capRes s.resN.toNat) else .ok ()

/-- The input check of a command that reads `PAYMEM` (rule R80). -/
def checkPay (s : State) : Except Raise Unit :=
  if overCap s.cfg.payCap s.payLen.toNat then .error (s.failure .capPay s.payLen.toNat) else .ok ()

/-- The input check of a command that reads `CONTMEM` (rule R80). -/
def checkCont (s : State) : Except Raise Unit :=
  if overCap s.cfg.contCap s.contLen.toNat then .error (s.failure .capCont s.contLen.toNat) else .ok ()

/-- The output check of a command that writes `W * H` residuals (rule R80). -/
def checkResOut (d : Dims) (s : State) : Except Raise Unit :=
  if overCap s.cfg.resCap d.n then .error (s.failure .capRes d.n) else .ok ()

/-- The residual bytes `RESMEM[0 .. RES_N-1]` (rule R32). -/
def State.resBytes (s : State) : List Byte := s.res.readBytes 0 s.resN.toNat

end Sys2Proof.Machine
end

