-- ==== Sys2Proof/Machine/Canon.lean ====
section
/-! DEFINITION. The canonical code-length assigner: `CANON` (rule R155). -/

namespace Sys2Proof.Machine

/-- The length table as numbers. -/
def lengthList (len : Vector (BitVec 8) 256) : List Nat := len.toList.map BitVec.toNat

/-- `K`, the Kraft sum in units of `2^-255` (rule R150). -/
def kraftSum (ls : List Nat) : Nat := (ls.map fun l => if l = 0 then 0 else 2 ^ (255 - l)).sum

/-- `count[L]` (rule R151): the symbols of length `L`, with `count[0] = 0`. -/
def countLen (ls : List Nat) (l : Nat) : Nat := if l = 0 then 0 else ls.count l

/-- `first[L]` (rule R152): `code <- (code + count[L-1]) << 1` from `code = 0`. -/
def firstCode (ls : List Nat) : Nat → Nat
  | 0 => 0
  | l + 1 => (firstCode ls l + countLen ls l) * 2

/-- The code of symbol `s` (rule R153): "The j-th symbol (j from 0, in ascending symbol order) among those of length `L`
gets `first[L] + j`"; an unused symbol gets 0. -/
def codeOf (ls : List Nat) (s : Nat) : Nat :=
  if ls.getD s 0 = 0 then 0 else firstCode ls (ls.getD s 0) + (ls.take s).count (ls.getD s 0)

/-- The canonical table of a length table (rule R154). -/
def canonicalTable (len : Vector (BitVec 8) 256) : Table :=
  { len := len
    code := Vector.ofFn fun s => BitVec.ofNat 255 (codeOf (lengthList len) s.val)
    maxLen := BitVec.ofNat 8 ((lengthList len).foldl max 0) }

/-- `BuildTable()` (rule R155): the Kraft check of rule R150, then the table. -/
def buildTable (s : State) : Except Raise State :=
  if 2 ^ 255 < kraftSum (lengthList s.len) then .error (s.failure .badLengthTable 0)
  else .ok { s with tbl := canonicalTable s.len }

/-- `CANON` (rule R155). -/
def execCanon (s : State) : Host.Outcome State Fault Refusal :=
  .next (endCommand .e s (buildTable s))

end Sys2Proof.Machine
end

