-- ==== Sys2Proof/Machine/Filter.lean ====
section
/-! DEFINITION. The residual delta filter: `FILT.FWD c` (rule R123) and `FILT.INV c` (rule R124). -/

namespace Sys2Proof.Machine

/-- The residuals of samples whose left neighbour is `prev`: the differences modulo 256 (rule R120). -/
def fwdFrom (prev : Byte) : List Byte → List Byte
  | [] => []
  | x :: xs => (x - prev) :: fwdFrom x xs

/-- `FwdRow(s)` (rule R120): the first column "equals the raw sample", "the same as predicting 0". -/
def fwdRow (row : List Byte) : List Byte := fwdFrom 0 row

/-- The samples that residuals give after the sample `prev`: the running sum modulo 256 (rule R121). -/
def invFrom (prev : Byte) : List Byte → List Byte
  | [] => []
  | r :: rs => (prev + r) :: invFrom (prev + r) rs

/-- `InvRow(r)` (rule R121). -/
def invRow (row : List Byte) : List Byte := invFrom 0 row

/-- Row `y` of channel `c` of the image (rule R68). -/
def imageRow (d : Dims) (c y : Nat) (m : Memory) : List Byte :=
  (List.range d.w).map fun x => m.read (d.sample c y x)

/-- The residual buffer of channel `c`: "the concatenation of its filtered rows, row 0 first" (rule R125). -/
def channelResiduals (d : Dims) (c : Nat) (m : Memory) : List Byte :=
  (List.range d.h).flatMap fun y => fwdRow (imageRow d c y m)

/-- `FilterForward(c)` (rule R123). -/
def filterForward (d : Dims) (c : Nat) (s : State) : State :=
  { s with res := s.res.writeBytes 0 (channelResiduals d c s.img), resN := BitVec.ofNat 64 d.n }

/-- The cells that row `y` of `FilterInverse(c)` writes, with their values (rule R124). -/
def inverseRow (d : Dims) (c : Nat) (res : Memory) (y : Nat) : List (Nat × Byte) :=
  (invRow (res.readBytes (y * d.w) d.w)).zipIdx.map fun p => (d.sample c y p.2, p.1)

/-- All cells that `FilterInverse(c)` writes, with their values. -/
def inverseSamples (d : Dims) (c : Nat) (res : Memory) : List (Nat × Byte) :=
  (List.range d.h).flatMap (inverseRow d c res)

/-- `FilterInverse(c)` (rule R124). -/
def filterInverse (d : Dims) (c : Nat) (s : State) : State :=
  { s with img := s.img.writeAll (inverseSamples d c s.res) }

/-- The check `c >= C` of rules R123 and R124. -/
def checkChannel (d : Dims) (c : Byte) (s : State) : Except Raise Unit :=
  if d.c ≤ c.toNat then .error (s.failure .badChannel c.toNat) else .ok ()

/-- The check `RES_N != N` of rule R124. -/
def checkResSize (d : Dims) (s : State) : Except Raise Unit :=
  if s.resN.toNat ≠ d.n then .error (s.failure .sizeMismatch s.resN.toNat) else .ok ()

/-- The body of `FILT.FWD c`, with `curch` already `c` (rule R123). -/
def filtFwdBody (c : Byte) (s : State) : Except Raise State := do
  let d ← validateImage s
  checkChannel d c s
  checkResOut d s
  return filterForward d c.toNat s

/-- `FILT.FWD c` (rule R123). -/
def execFiltFwd (c : Byte) (s : State) : Host.Outcome State Fault Refusal :=
  .next (endCommand .e s (filtFwdBody c { s with curch := c.setWidth 2 }))

/-- The body of `FILT.INV c`, with `curch` already `c` (rule R124). -/
def filtInvBody (c : Byte) (s : State) : Except Raise State := do
  checkRes s
  let d ← validateImage s
  checkChannel d c s
  checkResSize d s
  return filterInverse d c.toNat s

/-- `FILT.INV c` (rule R124). -/
def execFiltInv (c : Byte) (s : State) : Host.Outcome State Fault Refusal :=
  .next (endCommand .iw s (filtInvBody c { s with curch := c.setWidth 2 }))

end Sys2Proof.Machine
end

