-- ==== Sys2Proof/Machine/Histogram.lean ====
section
/-! DEFINITION. The histogram accumulator: `HIST` (rule R131). -/

namespace Sys2Proof.Machine

/-- `Hist(r)` (rule R130): for each byte value the number of indices that hold it. -/
def histogramOf (bytes : List Byte) : Vector (BitVec 64) 256 :=
  Vector.ofFn fun v => BitVec.ofNat 64 (bytes.count (BitVec.ofNat 8 v.val))

/-- `Histogram()` (rule R131). -/
def histogram (s : State) : State := { s with freq := histogramOf s.resBytes }

/-- The body of `HIST` (rule R131). -/
def histBody (s : State) : Except Raise State := do
  checkRes s
  return histogram s

/-- `HIST` (rule R131). -/
def execHist (s : State) : Host.Outcome State Fault Refusal :=
  .next (endCommand .e s (histBody s))

end Sys2Proof.Machine
end

