-- ==== Sys2Proof/Machine/Huffman.lean ====
section
/-! DEFINITION. The Huffman tree builder: `HUFF` (rule R140). -/

namespace Sys2Proof.Machine

/-- A node of the Huffman arena (rule R40) with the nodes below it: a leaf has a frequency and a symbol, an internal
node a frequency, an id `256 + k` and two children. The arena lives inside one `HUFF` only, so a child is the
node itself and not an index (log 7); frequencies are exact numbers (rule R47: below `2^72`). -/
inductive HuffNode where
  | leaf (freq sym : Nat)
  | inner (freq id : Nat) (left right : HuffNode)
  deriving DecidableEq, Repr

/-- `A_FREQ` (rule R40). -/
def HuffNode.freq : HuffNode → Nat
  | .leaf f _ => f
  | .inner f _ _ _ => f

/-- `A_ID` (rule R40). -/
def HuffNode.id : HuffNode → Nat
  | .leaf _ s => s
  | .inner _ i _ _ => i

/-- "`a` comes before `b`" (rule R136): frequency ascending, then id descending. -/
def HuffNode.before (a b : HuffNode) : Bool := a.freq < b.freq || (a.freq == b.freq && b.id < a.id)

/-- Inserting into the heap, which is kept in the order of rule R136, so that `ExtractMin` takes the first node. -/
def insertNode (n : HuffNode) : List HuffNode → List HuffNode
  | [] => [n]
  | m :: rest => if n.before m then n :: m :: rest else m :: insertNode n rest

/-- The leaves, in ascending symbol order (rule R135). -/
def leavesOf (freq : Vector (BitVec 64) 256) : List HuffNode :=
  freq.toList.zipIdx.filterMap fun p => if p.1.toNat = 0 then none else some (.leaf p.1.toNat p.2)

/-- All leaf indices put in the heap (rule R135). -/
def heapOf (leaves : List HuffNode) : List HuffNode := leaves.foldr insertNode []

/-- The merge loop (rule R137): while the heap holds more than one node, extract `a`, then `b`, and insert their
parent with the id `256 + k`. The first argument bounds the number of rounds. -/
def mergeLoop : Nat → Nat → List HuffNode → List HuffNode
  | fuel + 1, k, a :: b :: rest =>
    mergeLoop fuel (k + 1) (insertNode (.inner (a.freq + b.freq) (256 + k) a b) rest)
  | _, _, heap => heap

/-- The symbol and the depth of every leaf, for a node at a given depth (rule R139). -/
def HuffNode.leafDepths : HuffNode → Nat → List (Nat × Nat)
  | .leaf _ s, d => [(s, d)]
  | .inner _ _ l r, d => l.leafDepths (d + 1) ++ r.leafDepths (d + 1)

/-- The pairs (symbol, length) that `BuildLengths()` writes over zeros (rules R138, R139). -/
def symbolLengths (leaves : List HuffNode) : List (Nat × Nat) :=
  match leaves with
  | [] => []
  | [l] => [(l.id, 1)]
  | l :: l' :: rest =>
    (mergeLoop (l :: l' :: rest).length 0 (heapOf (l :: l' :: rest))).flatMap fun root => root.leafDepths 0

/-- The 256 code lengths of a frequency table (rule R140). -/
def huffmanLengths (freq : Vector (BitVec 64) 256) : Vector (BitVec 8) 256 :=
  Vector.ofFn fun s => BitVec.ofNat 8 (((symbolLengths (leavesOf freq)).lookup s.val).getD 0)

/-- `BuildLengths()` (rule R140). -/
def buildLengths (s : State) : State := { s with len := huffmanLengths s.freq }

/-- `HUFF` (rule R140). -/
def execHuff (s : State) : Host.Outcome State Fault Refusal :=
  .next (complete (buildLengths s))

end Sys2Proof.Machine
end

