-- ==== Sys2Proof/Machine/Packer.lean ====
section
/-! DEFINITION. The bit-stream packer and unpacker: `PK.INIT`, `PK.PUT s`, `PK.FIN`, `PACK`, `UP.INIT`, `UP.BIT`
(rules R160 to R172). -/

namespace Sys2Proof.Machine

/-- The `len` low bits of a code, most significant first (rules R63, R106, R161). -/
def codeBits (code len : Nat) : List Bool := (List.range len).map fun j => code.testBit (len - 1 - j)

/-- `PackInit()` (rule R160). -/
def packInit (s : State) : State := { s with payLen := 0, pkAcc := 0, pkNb := 0 }

/-- `PackAppendByte(b)` (rule R162). -/
def packAppendByte (b : Byte) (s : State) : Except Raise State :=
  if overCap s.cfg.payCap (s.payLen.toNat + 1) || s.payLen.toNat == 2 ^ 64 - 1 then
    .error (s.failure .capPay s.payLen.toNat)
  else .ok { s with pay := s.pay.write s.payLen.toNat b, payLen := s.payLen + 1 }

/-- One round of the loop of `PackPut` (rule R161): shift one bit into `PK_ACC`; a full byte is appended. -/
def packBit (bit : Bool) (s : State) : Except Raise State :=
  if s.pkNb.toNat + 1 = 8 then
    match packAppendByte ((s.pkAcc <<< 1) ||| (BitVec.ofBool bit).setWidth 8) s with
    | .ok t => .ok { t with pkAcc := 0, pkNb := 0 }
    | .error e => .error e
  else
    .ok { s with pkAcc := (s.pkAcc <<< 1) ||| (BitVec.ofBool bit).setWidth 8, pkNb := s.pkNb + 1 }

/-- `PackPut` on the bits of a code in stream order (rule R161). -/
def packBits : List Bool → State → Except Raise State
  | [], s => .ok s
  | b :: bs, s =>
    match packBit b s with
    | .ok t => packBits bs t
    | .error e => .error e

/-- `PackPut(code, len)` (rule R161). -/
def packPut (code len : Nat) (s : State) : Except Raise State := packBits (codeBits code len) s

/-- `PackFin()` (rule R163). -/
def packFin (s : State) : Except Raise State :=
  if s.pkNb = 0 then .ok s
  else
    match packAppendByte (s.pkAcc <<< (8 - s.pkNb.toNat)) s with
    | .ok t => .ok { t with pkAcc := 0, pkNb := 0 }
    | .error e => .error e

/-- `PutSymbol(s)` (rule R165). -/
def putSymbol (sym : Byte) (s : State) : Except Raise State :=
  if s.tbl.len[sym.toNat] = 0 then .error (s.failure .noCode sym.toNat)
  else packPut s.tbl.code[sym.toNat].toNat s.tbl.len[sym.toNat].toNat s

/-- `PutSymbol` of each byte in order. -/
def putSymbols : List Byte → State → Except Raise State
  | [], s => .ok s
  | b :: bs, s =>
    match putSymbol b s with
    | .ok t => putSymbols bs t
    | .error e => .error e

/-- `PackChannel()` (rule R167). -/
def packChannel (s : State) : Except Raise State := do
  let t ← putSymbols s.resBytes (packInit s)
  packFin t

/-- `PK.INIT` (rule R164). -/
def execPkInit (s : State) : Host.Outcome State Fault Refusal :=
  .next (complete (packInit s))

/-- `PK.PUT s` (rule R165). -/
def execPkPut (sym : Byte) (s : State) : Host.Outcome State Fault Refusal :=
  .next (endCommand .e s (putSymbol sym s))

/-- `PK.FIN` (rule R166). -/
def execPkFin (s : State) : Host.Outcome State Fault Refusal :=
  .next (endCommand .e s (packFin s))

/-- The body of `PACK` (rule R167). -/
def packBody (s : State) : Except Raise State := do
  checkRes s
  packChannel s

/-- `PACK` (rule R167). -/
def execPack (s : State) : Host.Outcome State Fault Refusal :=
  .next (endCommand .e s (packBody s))

/-- `UnpackInit()` (rule R168). -/
def unpackInit (s : State) : State := { s with upPos := 0, upBit := 0 }

/-- `GetBit()` (rule R168): bit `7 - UP_BIT` of `PAYMEM[UP_POS]`, and the cursor moved on by one bit; `isym` is the
position an exhausted stream reports (rule R169). -/
def getBit (isym : Nat) (s : State) : Except Raise (Bool × State) :=
  if s.payLen.toNat ≤ s.upPos.toNat then .error (s.failure .streamExhausted isym)
  else
    .ok ((s.pay.read s.upPos.toNat).getLsbD (7 - s.upBit.toNat),
      if s.upBit.toNat + 1 = 8 then { s with upBit := 0, upPos := s.upPos + 1 } else { s with upBit := s.upBit + 1 })

/-- `UP.INIT` (rule R172). -/
def execUpInit (s : State) : Host.Outcome State Fault Refusal :=
  .next (complete (unpackInit s))

/-- The body of `UP.BIT` (rule R170); `ERR_POS` is 0 on an exhausted stream (rule R169). -/
def upBitBody (s : State) : Except Raise State := do
  checkPay s
  let (bit, t) ← getBit 0 s
  return { t with result := (BitVec.ofBool bit).setWidth 32 }

/-- `UP.BIT` (rule R170). -/
def execUpBit (s : State) : Host.Outcome State Fault Refusal :=
  .next (endCommand .e s (upBitBody s))

end Sys2Proof.Machine
end

