-- ==== Sys2Proof/Machine/Trie.lean ====
section
/-! DEFINITION. The Huffman decode trie: `TRIE`, `TR.SYM`, `DEC` (rules R176 to R183). -/

namespace Sys2Proof.Machine

/-- Node `i` of the trie; an index at or above `T_N` reads as no child and no mark (rule R43, last column; log 6). -/
def trieNode (t : List TrieNode) (i : Nat) : TrieNode := t.getD i TrieNode.fresh

/-- The child of a node on a bit (rules R177, R180). -/
def TrieNode.child (n : TrieNode) (bit : Bool) : BitVec 16 := if bit then n.c1 else n.c0

/-- A node with its child on a bit set (rule R177). -/
def TrieNode.withChild (n : TrieNode) (bit : Bool) (i : BitVec 16) : TrieNode :=
  if bit then { n with c1 := i } else { n with c0 := i }

/-- `TrieInsert` from a node on (rule R177): walk the bits, create absent children, mark the last node. -/
def trieInsert : List Bool → Nat → BitVec 9 → List TrieNode → List TrieNode
  | [], node, sym, t => t.set node { trieNode t node with sym := sym }
  | b :: bs, node, sym, t =>
    if (trieNode t node).child b = ABSENT then
      trieInsert bs t.length sym
        ((t ++ [TrieNode.fresh]).set node ((trieNode t node).withChild b (BitVec.ofNat 16 t.length)))
    else trieInsert bs ((trieNode t node).child b).toNat sym t

/-- `TrieInsert(s)` for a symbol with its length and code; an unused symbol is passed over (rules R177, R178). -/
def insertSymbol (t : List TrieNode) (sym : Nat) (len : BitVec 8) (code : BitVec 255) : List TrieNode :=
  if len = 0 then t else trieInsert (codeBits code.toNat len.toNat) 0 (BitVec.ofNat 9 sym) t

/-- The trie of a table (rule R178): the root alone, then every used symbol in ascending order. -/
def trieOf (tbl : Table) : List TrieNode :=
  (tbl.len.toList.zip tbl.code.toList).zipIdx.foldl (fun t p => insertSymbol t p.2 p.1.1 p.1.2) [TrieNode.fresh]

/-- `BuildTrie()` (rule R178). -/
def buildTrie (s : State) : State := { s with trie := trieOf s.tbl }

/-- `TRIE` (rule R179). -/
def execTrie (s : State) : Host.Outcome State Fault Refusal :=
  .next (complete (buildTrie s))

/-- The number of bits the unpacker can still read (rule R168). -/
def bitsLeft (s : State) : Nat := 8 * s.payLen.toNat - (8 * s.upPos.toNat + s.upBit.toNat)

/-- The loop of `DecodeSymbol()` from a node on (rule R180). Each round reads one bit, so the number of bits left
bounds the rounds; when none is left the next `GetBit()` finds the stream exhausted (log 11). -/
def decodeFrom : Nat → Nat → Nat → State → Except Raise (Byte × State)
  | fuel, isym, node, s =>
    if (trieNode s.trie node).sym ≠ NONE then .ok ((trieNode s.trie node).sym.setWidth 8, s)
    else
      match fuel with
      | 0 => .error (s.failure .streamExhausted isym)
      | fuel + 1 =>
        match getBit isym s with
        | .error e => .error e
        | .ok (bit, t) =>
          if (trieNode s.trie node).child bit = ABSENT then .error (t.failure .corruptCodePath isym)
          else decodeFrom fuel isym ((trieNode s.trie node).child bit).toNat t

/-- `DecodeSymbol()` (rule R180). -/
def decodeSymbol (isym : Nat) (s : State) : Except Raise (Byte × State) := decodeFrom (bitsLeft s) isym 0 s

/-- The body of `TR.SYM` (rule R181); `ERR_POS` is 0 on a failure (rule R169). -/
def trSymBody (s : State) : Except Raise State := do
  checkPay s
  let (sym, t) ← decodeSymbol 0 s
  return { t with result := sym.setWidth 32 }

/-- `TR.SYM` (rule R181). -/
def execTrSym (s : State) : Host.Outcome State Fault Refusal :=
  .next (endCommand .e s (trSymBody s))

/-- The loop of `DecodeChannel()` (rule R183): `n` symbols from symbol index `isym` on. -/
def decodeSymbols : Nat → Nat → State → Except Raise State
  | 0, _, s => .ok s
  | n + 1, isym, s =>
    match decodeSymbol isym s with
    | .error e => .error e
    | .ok (sym, t) => decodeSymbols n (isym + 1) { t with res := t.res.write isym sym }

/-- `DecodeChannel()` (rule R183). -/
def decodeChannel (s : State) : Except Raise State := decodeSymbols s.resN.toNat 0 (unpackInit s)

/-- The body of `DEC` (rule R183). -/
def decBody (s : State) : Except Raise State := do
  checkRes s
  checkPay s
  decodeChannel s

/-- `DEC` (rule R183). -/
def execDec (s : State) : Host.Outcome State Fault Refusal :=
  .next (endCommand .e s (decBody s))

end Sys2Proof.Machine
end

