-- ==== Sys2Proof/Machine/Container.lean ====
section
/-! DEFINITION. The container codec orchestrator: `HDR.WR`, `CHN.WR`, `HDR.RD`, `CHN.RD`, `COMPRESS`, `DECOMPRESS`
(rules R190 to R209). -/

namespace Sys2Proof.Machine

/-! ## Writing -/

/-- `WriteHeader()` (rule R193). -/
def writeHeader (s : State) : Except Raise State := do
  let s ← contWrite [s.cfg.magic0, s.cfg.magic1, s.cfg.magic2] { s with cpos := 0 }
  let s ← contWrite (le32 s.desc.width) s
  let s ← contWrite (le32 s.desc.height) s
  let s ← contWrite (le16 s.desc.maxval) s
  contWrite [s.desc.channels] s

/-- `WriteChannel()` (rule R195). -/
def writeChannel (s : State) : Except Raise State :=
  if 2 ^ 32 - 1 < s.payLen.toNat then .error (s.failure .payloadTooLarge s.payLen.toNat)
  else do
    let s ← contWrite s.tbl.len.toList s
    let s ← contWrite (le32 (s.payLen.setWidth 32)) s
    contWrite (s.pay.readBytes 0 s.payLen.toNat) s

/-- The container ends at the cursor: `CONT_LEN <- CPOS` (rules R194, R196, R203). -/
def closeContainer (s : State) : State := { s with contLen := s.cpos }

/-- The body of `HDR.WR` (rule R194). -/
def hdrWrBody (s : State) : Except Raise State := do
  let _ ← validateImage s
  let t ← writeHeader s
  return closeContainer t

/-- `HDR.WR` (rule R194). -/
def execHdrWr (s : State) : Host.Outcome State Fault Refusal :=
  .next (endCommand .cw s (hdrWrBody s))

/-- The body of `CHN.WR` (rule R196). -/
def chnWrBody (s : State) : Except Raise State := do
  checkPay s
  let t ← writeChannel s
  return closeContainer t

/-- `CHN.WR` (rule R196). -/
def execChnWr (s : State) : Host.Outcome State Fault Refusal :=
  .next (endCommand .cw s (chnWrBody s))

/-! ## Reading -/

/-- The header fields as `ReadHeader()` reads them (rule R197). -/
structure Header where
  w  : Nat
  h  : Nat
  mv : Nat
  cc : Nat
  deriving DecidableEq, Repr

/-- The reading half of `ReadHeader()` (rule R197): the magic is compared as soon as it is read, the other fields are
all read before any of them is validated. -/
def readHeaderFields (s : State) : Except Raise (Header × State) := do
  let (m, s) ← contRead 3 .hdrMagic { s with cpos := 0 }
  if m ≠ [s.cfg.magic0, s.cfg.magic1, s.cfg.magic2] then .error (s.failure .badMagic 0)
  else
    let (w, s) ← contRead 4 .hdrWidth s
    let (h, s) ← contRead 4 .hdrHeight s
    let (mv, s) ← contRead 2 .hdrMaxval s
    let (cc, s) ← contRead 1 .hdrChannels s
    return ({ w := uLE w, h := uLE h, mv := uLE mv, cc := uLE cc }, s)

/-- The validating half of `ReadHeader()` (rule R197), in header order; the descriptor is written only after every check
has passed. -/
def acceptHeader (hd : Header) (s : State) : Except Raise State :=
  if hd.w = 0 then .error (s.failure .zeroWidth 3)
  else if hd.h = 0 then .error (s.failure .zeroHeight 7)
  else if hd.cc ≠ 1 ∧ hd.cc ≠ 3 then .error (s.failure .badChannels 13)
  else if overCap s.cfg.imgCap (hd.w * hd.h * hd.cc) then .error (s.failure .capImg (hd.w * hd.h * hd.cc))
  else
    .ok { s with desc :=
      { width := BitVec.ofNat 32 hd.w, height := BitVec.ofNat 32 hd.h, maxval := BitVec.ofNat 16 hd.mv
        channels := BitVec.ofNat 8 hd.cc, depth := 8 } }

/-- `ReadHeader()` (rule R197). -/
def readHeader (s : State) : Except Raise State := do
  let (hd, t) ← readHeaderFields s
  acceptHeader hd t

/-- The body of `HDR.RD` (rule R198). -/
def hdrRdBody (s : State) : Except Raise State := do
  checkCont s
  readHeader s

/-- `HDR.RD` (rule R198). -/
def execHdrRd (s : State) : Host.Outcome State Fault Refusal :=
  .next (endCommand .iw s (hdrRdBody s))

/-- The 256 bytes of a length table as the `LEN` bank (rule R199). -/
def lengthBank (bs : List Byte) : Vector (BitVec 8) 256 := Vector.ofFn fun s => bs.getD s.val 0

/-- The last part of `ReadChannel()` (rule R199): the payload into the `PAY` bank, or `CapacityError` (`PAY`). -/
def storePayload (bs : List Byte) (s : State) : Except Raise State :=
  if overCap s.cfg.payCap bs.length then .error (s.failure .capPay bs.length)
  else .ok { s with pay := s.pay.writeBytes 0 bs, payLen := BitVec.ofNat 64 bs.length }

/-- `ReadChannel()` (rule R199). -/
def readChannel (s : State) : Except Raise State := do
  let (t, s) ← contRead 256 .lengths s
  let s := { s with len := lengthBank t }
  let (n, s) ← contRead 4 .payloadCount s
  let (p, s) ← contRead (uLE n) .payload s
  storePayload p s

/-- The body of `CHN.RD` (rule R200). -/
def chnRdBody (s : State) : Except Raise State := do
  checkCont s
  readChannel s

/-- `CHN.RD` (rule R200). -/
def execChnRd (s : State) : Host.Outcome State Fault Refusal :=
  .next (endCommand .e s (chnRdBody s))

/-! ## The whole-call commands -/

/-- `CompressChannel(c)` (rule R202). -/
def compressChannel (d : Dims) (c : Nat) (s : State) : Except Raise State := do
  let s := { s with curch := BitVec.ofNat 2 c }
  checkResOut d s
  let s ← buildTable (buildLengths (histogram (filterForward d c s)))
  let s ← packChannel s
  writeChannel s

/-- The channel loop (rule R201): the stages of each channel, in the order of the list. -/
def forChannels (stage : Nat → State → Except Raise State) : List Nat → State → Except Raise State
  | [], s => .ok s
  | c :: cs, s =>
    match stage c s with
    | .ok t => forChannels stage cs t
    | .error e => .error e

/-- The body of `COMPRESS` (rule R203), but for its last two lines. -/
def compressBody (s : State) : Except Raise State := do
  let s := resetEphemeral s
  let d ← validateImage s
  let s ← writeHeader s
  let s ← forChannels (compressChannel d) (List.range d.c) s
  return resetEphemeral (closeContainer s)

/-- `COMPRESS` (rule R203). -/
def execCompress (s : State) : Host.Outcome State Fault Refusal :=
  .next (endCommand .cw s (compressBody s))

/-- `DecompressChannel(c)` (rule R208). -/
def decompressChannel (d : Dims) (c : Nat) (s : State) : Except Raise State := do
  let s ← readChannel { s with curch := BitVec.ofNat 2 c }
  let s ← buildTable s
  let s := buildTrie s
  checkResOut d s
  let s ← decodeChannel { s with resN := BitVec.ofNat 64 d.n }
  return filterInverse d c s

/-- The body of `DECOMPRESS` (rule R209), but for its last two lines. -/
def decompressBody (s : State) : Except Raise State := do
  let s := resetEphemeral s
  checkCont s
  let s ← readHeader s
  let s ← forChannels (decompressChannel s.desc.dims) (List.range s.desc.dims.c) s
  return resetEphemeral s

/-- `DECOMPRESS` (rule R209). -/
def execDecompress (s : State) : Host.Outcome State Fault Refusal :=
  .next (endCommand .iw s (decompressBody s))

end Sys2Proof.Machine
end

