-- ==== Sys2Proof/Machine/Control.lean ====
section
/-! DEFINITION. The control commands: `NOP` (rule R220) and `CLR` (rule R221). -/

namespace Sys2Proof.Machine

/-- `NOP` (rule R220): nothing but `STATE <- DONE`. -/
def execNop (s : State) : Host.Outcome State Fault Refusal :=
  .next (complete s)

/-- `CLR` (rule R221). -/
def execClr (s : State) : Host.Outcome State Fault Refusal :=
  .next (clearError s)

end Sys2Proof.Machine
end

