-- ==== Sys2Proof/Machine/Dispatch.lean ====
section
/-! DEFINITION. One arm per command, each one call of the command's meaning. -/

namespace Sys2Proof.Machine

/-- The effect of a command the sequencer has accepted (rule R93). -/
def exec (i : Instr) (s : State) : Host.Outcome State Fault Refusal :=
  match i with
  | .nop => Sys2Proof.Machine.execNop s
  | .compress => Sys2Proof.Machine.execCompress s
  | .decompress => Sys2Proof.Machine.execDecompress s
  | .clr => Sys2Proof.Machine.execClr s
  | .filtFwd c => Sys2Proof.Machine.execFiltFwd c s
  | .filtInv c => Sys2Proof.Machine.execFiltInv c s
  | .hist => Sys2Proof.Machine.execHist s
  | .huff => Sys2Proof.Machine.execHuff s
  | .canon => Sys2Proof.Machine.execCanon s
  | .pkInit => Sys2Proof.Machine.execPkInit s
  | .pkPut sym => Sys2Proof.Machine.execPkPut sym s
  | .pkFin => Sys2Proof.Machine.execPkFin s
  | .pack => Sys2Proof.Machine.execPack s
  | .upInit => Sys2Proof.Machine.execUpInit s
  | .upBit => Sys2Proof.Machine.execUpBit s
  | .trie => Sys2Proof.Machine.execTrie s
  | .trSym => Sys2Proof.Machine.execTrSym s
  | .dec => Sys2Proof.Machine.execDec s
  | .hdrWr => Sys2Proof.Machine.execHdrWr s
  | .chnWr => Sys2Proof.Machine.execChnWr s
  | .hdrRd => Sys2Proof.Machine.execHdrRd s
  | .chnRd => Sys2Proof.Machine.execChnRd s

end Sys2Proof.Machine
end

