-- ==== Sys2Proof/Machine/HostPort.lean ====
section
/-! DEFINITION. The host port: `HostRead` and `HostWrite` (rules R42, R43, R64 to R67), but for writes to `CMD`. -/

namespace Sys2Proof.Machine

/-- What a host read of space `REG` returns (rule R42): 0 for `CMD` and for reserved numbers. -/
def regRead (s : State) (n : Nat) : Nat :=
  match n with
  | 1 => s.statusWord.toNat
  | 2 => s.errWord.toNat
  | 3 => s.errPos.toNat
  | 4 => s.result.toNat
  | 5 => s.cpos.toNat
  | 8 => s.desc.width.toNat
  | 9 => s.desc.height.toNat
  | 10 => s.desc.maxval.toNat
  | 11 => s.desc.channels.toNat
  | 12 => s.desc.depth.toNat
  | 16 => s.contLen.toNat
  | 17 => s.resN.toNat
  | 18 => s.payLen.toNat
  | 19 => s.tbl.maxLen.toNat
  | 20 => s.pkAcc.toNat
  | 21 => s.pkNb.toNat
  | 22 => s.upPos.toNat
  | 23 => s.upBit.toNat
  | 24 => s.trie.length
  | _ => 0

/-- Whether an index is inside a byte memory of a given capacity (rule R43). -/
def inCap (cap : Option Nat) (i : Nat) : Bool := !overCap cap (i + 1)

/-- A host read of a byte memory: 0 out of range (rule R43). -/
def memRead (cap : Option Nat) (m : Memory) (i : Nat) : Nat := if inCap cap i then (m.read i).toNat else 0

/-- A host write of a byte memory: the value modulo 256, nothing out of range (rules R65, R66). -/
def memWrite (cap : Option Nat) (m : Memory) (i v : Nat) : Memory :=
  if inCap cap i then m.write i (BitVec.ofNat 8 v) else m

/-- A host read of a register array of 256 elements: 0 out of range (rule R43). -/
def bankRead {w : Nat} (v : Vector (BitVec w) 256) (i : Nat) : Nat := if h : i < 256 then v[i].toNat else 0

/-- A host write of a register array of 256 elements: the value modulo `2^w`, nothing out of range (rules R65, R66). -/
def bankWrite {w : Nat} (v : Vector (BitVec w) 256) (i x : Nat) : Vector (BitVec w) 256 :=
  if h : i < 256 then v.set i (BitVec.ofNat w x) else v

/-- `HostRead(space, index)` when `STATE` is not BUSY (rule R64); out of range in the trie spaces it is `0xFFFF` or
`0x100` (rule R43). -/
def hostRead (s : State) (space i : Nat) : Nat :=
  match space with
  | 0 => regRead s i
  | 1 => memRead s.cfg.imgCap s.img i
  | 2 => memRead s.cfg.contCap s.cont i
  | 3 => memRead s.cfg.resCap s.res i
  | 4 => memRead s.cfg.payCap s.pay i
  | 5 => bankRead s.freq i
  | 6 => bankRead s.len i
  | 7 => bankRead s.tbl.len i
  | 8 => bankRead s.tbl.code i
  | 9 => if i < s.trie.length then (s.trie.getD i TrieNode.fresh).c0.toNat else ABSENT.toNat
  | 10 => if i < s.trie.length then (s.trie.getD i TrieNode.fresh).c1.toNat else ABSENT.toNat
  | 11 => if i < s.trie.length then (s.trie.getD i TrieNode.fresh).sym.toNat else NONE.toNat
  | _ => 0

/-- A host write to space `REG` (rules R42, R66), but for `CMD`: read-only and reserved numbers ignore it. -/
def regWrite (s : State) (n v : Nat) : State :=
  match n with
  | 8 => { s with desc := { s.desc with width := BitVec.ofNat 32 v } }
  | 9 => { s with desc := { s.desc with height := BitVec.ofNat 32 v } }
  | 10 => { s with desc := { s.desc with maxval := BitVec.ofNat 16 v } }
  | 11 => { s with desc := { s.desc with channels := BitVec.ofNat 8 v } }
  | 12 => { s with desc := { s.desc with depth := BitVec.ofNat 8 v } }
  | 16 => { s with contLen := BitVec.ofNat 64 v }
  | 17 => { s with resN := BitVec.ofNat 64 v }
  | 18 => { s with payLen := BitVec.ofNat 64 v }
  | _ => s

/-- `HostWrite(space, index, value)` when `STATE` is not BUSY and the element is not `CMD` (rule R65): "a write has no
effect other than the store". -/
def hostStore (s : State) (space i v : Nat) : State :=
  match space with
  | 0 => regWrite s i v
  | 1 => { s with img := memWrite s.cfg.imgCap s.img i v }
  | 2 => { s with cont := memWrite s.cfg.contCap s.cont i v }
  | 3 => { s with res := memWrite s.cfg.resCap s.res i v }
  | 4 => { s with pay := memWrite s.cfg.payCap s.pay i v }
  | 5 => { s with freq := bankWrite s.freq i v }
  | 6 => { s with len := bankWrite s.len i v }
  | _ => s

/-- A host read, in any state (rules R64, R67): while BUSY `STATUS` reads 1 and everything else a free value (log 5).
The value goes to the model's own `portData`; nothing of the block changes. -/
def portRead (space i : Nat) (s : State) : State :=
  match s.status with
  | .busy =>
    if space = 0 ∧ i = 1 then { s with portData := 1 }
    else { s with portData := Config.busyRead s.busyReads space i, busyReads := s.busyReads + 1 }
  | .idle => { s with portData := hostRead s space i }
  | .done => { s with portData := hostRead s space i }
  | .error => { s with portData := hostRead s space i }

/-- A host write to any element but `CMD`, in any state (rules R65, R67): ignored while BUSY. -/
def portStore (space i v : Nat) (s : State) : State :=
  match s.status with
  | .busy => s
  | .idle => hostStore s space i v
  | .done => hostStore s space i v
  | .error => hostStore s space i v

end Sys2Proof.Machine
end

