-- ==== Sys2Proof/Machine/Sequencer.lean ====
section
/-! DEFINITION. Acceptance of command words (rule R93) and what one host event does (logs 1, 2). -/

namespace Sys2Proof.Machine

/-- The cause an illegal word raises (rule R94). -/
def illegalCause : DecodeError → Cause
  | .reservedOpcode => .reservedOpcode
  | .reservedBits => .reservedBits

/-- The sequencer executes an accepted word to its end (rule R93); an illegal word raises `IllegalCommand` with the word
as the position, class E (rules R94, R240). -/
def runWord (w : Word) (s : State) : Host.Outcome State Fault Refusal :=
  match decode w with
  | .ok i => exec i s
  | .error e => .next (raise .e (s.failure (illegalCause e) w.toNat) s)

/-- A word has just been accepted: if the host now waits (or does nothing more) the command runs to its end; if the
host does something else first, that finds the block BUSY (log 1). -/
def start (w : Word) (s : State) : Host.Outcome State Fault Refusal :=
  match s.port with
  | [] => runWord w s
  | .wait :: rest => runWord w { s with port := rest }
  | .read _ _ :: _ => .next { s with running := some w }
  | .write _ _ _ :: _ => .next { s with running := some w }
  | .reset :: _ => .next { s with running := some w }

/-- Acceptance of a word written to `CMD` (rule R93). -/
def offer (w : Word) (s : State) : Host.Outcome State Fault Refusal :=
  match s.status with
  | .busy => .next s
  | .error => if w = 0x00000003 then exec .clr s else .next s
  | .idle => start w { s with status := .busy }
  | .done => start w { s with status := .busy }

/-- The command in execution, if there is one, runs to its end. -/
def finish (s : State) : Host.Outcome State Fault Refusal :=
  match s.running with
  | some w => runWord w { s with running := none }
  | none => .next s

/-- What one event does to the block; the event has already left `port`. -/
def hostEvent (e : HostEvent) (s : State) : Host.Outcome State Fault Refusal :=
  match e with
  | .read space i => .next (portRead space i s)
  | .write space i v => if space = 0 ∧ i = 0 then offer (BitVec.ofNat 32 v) s else .next (portStore space i v s)
  | .wait => finish s
  | .reset => .next (hardwareReset s)

/-- One step: the next host event; when the host does nothing more, a command in execution runs to its end and an idle
block stays as it is (rules R252, R261). -/
def advance (s : State) : Host.Outcome State Fault Refusal :=
  match s.port with
  | [] => finish s
  | e :: rest => hostEvent e { s with port := rest }

/-- The state in which the next step accepts and runs a given word: the host's next two actions are the write of the
word to `CMD` and the wait for its end; a block that accepts no word (BUSY, ERROR) is put in IDLE (log 12). -/
def offerNext (w : Word) (s : State) : State :=
  { s with
    port := .write 0 0 w.toNat :: .wait :: s.port
    status := if s.status = .done then .done else .idle
    running := none }

end Sys2Proof.Machine
end

