-- ==== Sys2Proof/Machine/Step.lean ====
section
/-! DEFINITION. The step of the machine, and the host's placing of a command word. -/

namespace Sys2Proof.Machine

/-- One step of the block and its host: the next host event, with the whole command it starts or waits for. -/
def step (s : State) : Host.Outcome State Fault Refusal := advance s

/-- `s` with the word `w` (bits from `nbits` up taken as 0) as what the very next step accepts and runs. -/
def State.withFetchWord (s : State) (nbits w : Nat) : State := offerNext (BitVec.ofNat 32 (w % 2 ^ nbits)) s

end Sys2Proof.Machine
end

