-- ==== Sys2Proof/Safety.lean ====
section
/-! DEFINITION. What counts as a safe run, and the words the claims are stated in: the invariant of 10_state, the checks
a command makes in their order, bit sequences, and what a payload or a container stands for as a function of bits. -/

namespace Sys2Proof.Machine

/-! ## The invariant -/

/-- The Kraft inequality of a length table (rule R150): "Kraft-valid exactly when `K <= 2^255`". -/
abbrev KraftValid (len : Vector (BitVec 8) 256) : Prop := kraftSum (lengthList len) ≤ 2 ^ 255

/-- Every ephemeral register and array at its reset value (rule R48); the contents of `RESMEM` and `PAYMEM` are
unspecified and say nothing. -/
structure EphemeralClear (s : State) : Prop where
  resN : s.resN = 0
  freq : s.freq = Vector.replicate 256 0
  len : s.len = Vector.replicate 256 0
  tbl : s.tbl = Table.zero
  payLen : s.payLen = 0
  pkAcc : s.pkAcc = 0
  pkNb : s.pkNb = 0
  upPos : s.upPos = 0
  upBit : s.upBit = 0
  trie : s.trie = [TrieNode.fresh]

/-- The invariant of the machine between two steps. Rule R45, but that in ERROR the four banks a host may write there
(rule R65: `RES`, `FREQ`, `LEN`, `PAY`) are left out (log 13; `Obligations.StepKeepsTheBlockInvariant` has R45 (b) whole); rules R35 (a), (f), R37, R41; the trie is the trie of
some valid table (rules R39, R178); the byte memories are in canonical form; BUSY is a command in execution (log 1). -/
structure Inv (s : State) : Prop where
  memories : s.img.wf ∧ s.cont.wf ∧ s.res.wf ∧ s.pay.wf
  spaces : s.img.space = 1 ∧ s.cont.space = 2 ∧ s.res.space = 3 ∧ s.pay.space = 4
  busy : s.status = .busy ↔ s.running.isSome = true
  noChannel : s.curch = NOCH
  noError : s.status ≠ .error → s.errKind = 0 ∧ s.errCause = 0 ∧ s.errCh = 0 ∧ s.errPos = 0
  error : s.status = .error →
    (1 ≤ s.errKind.toNat ∧ s.errKind.toNat ≤ 7 ∧ s.errCause.toNat / 16 = s.errKind.toNat) ∧
    s.tbl = Table.zero ∧ s.pkAcc = 0 ∧ s.pkNb = 0 ∧ s.upPos = 0 ∧ s.upBit = 0 ∧ s.trie = [TrieNode.fresh]
  packer : s.pkAcc.toNat < 2 ^ s.pkNb.toNat
  table : KraftValid s.tbl.len ∧ s.tbl = canonicalTable s.tbl.len
  trie : ∃ len, KraftValid len ∧ s.trie = trieOf (canonicalTable len)

/-- A run that the model's user may rely on: `n` steps from a state that has the invariant, none of which stops. (No step
can stop: `Fault` is empty and no arm refuses.) -/
def SafeRun (n : Nat) (s : State) : Prop := Inv s ∧ ∃ t, Sys2Proof.core.run n s = .next t

/-! ## The checks of a command, in their order -/

/-- The first check of `ValidateImage()` that fails, with its position (rule R190); `none` for a valid descriptor. -/
def imageFault (s : State) : Option (Cause × Nat) :=
  let (w, h, c) := (s.desc.width.toNat, s.desc.height.toNat, s.desc.channels.toNat)
  if s.desc.depth.toNat ≠ 8 then some (.depth, s.desc.depth.toNat)
  else if c ≠ 1 ∧ c ≠ 3 then some (.channels, c)
  else if w = 0 ∨ h = 0 then some (.empty, 0)
  else if overCap s.cfg.imgCap (w * h * c) then some (.capImg, w * h * c)
  else none

/-- The four multi-byte header fields and the channel count, as numbers at their offsets (rule R100). -/
def headerWidth (s : State) : Nat :=
  (s.cont.read 3).toNat + 256 * (s.cont.read 4).toNat + 65536 * (s.cont.read 5).toNat + 16777216 * (s.cont.read 6).toNat

def headerHeight (s : State) : Nat :=
  (s.cont.read 7).toNat + 256 * (s.cont.read 8).toNat + 65536 * (s.cont.read 9).toNat + 16777216 * (s.cont.read 10).toNat

def headerMaxval (s : State) : Nat := (s.cont.read 11).toNat + 256 * (s.cont.read 12).toNat

def headerChannels (s : State) : Nat := (s.cont.read 13).toNat

/-- The first check of `HDR.RD` that fails, with its position (rules R197, R198, R242 item 5); `none` for a valid header. -/
def headerFault (s : State) : Option (Cause × Nat) :=
  let n := s.contLen.toNat
  if overCap s.cfg.contCap n then some (.capCont, n)
  else if n < 3 then some (.hdrMagic, 0)
  else if s.cont.read 0 ≠ s.cfg.magic0 ∨ s.cont.read 1 ≠ s.cfg.magic1 ∨ s.cont.read 2 ≠ s.cfg.magic2 then some (.badMagic, 0)
  else if n < 7 then some (.hdrWidth, 3)
  else if n < 11 then some (.hdrHeight, 7)
  else if n < 13 then some (.hdrMaxval, 11)
  else if n < 14 then some (.hdrChannels, 13)
  else if headerWidth s = 0 then some (.zeroWidth, 3)
  else if headerHeight s = 0 then some (.zeroHeight, 7)
  else if headerChannels s ≠ 1 ∧ headerChannels s ≠ 3 then some (.badChannels, 13)
  else if overCap s.cfg.imgCap (headerWidth s * headerHeight s * headerChannels s) then
    some (.capImg, headerWidth s * headerHeight s * headerChannels s)
  else none

/-- The descriptor a valid header stands for (rule R197, last lines). -/
def headerDesc (s : State) : Desc :=
  { width := BitVec.ofNat 32 (headerWidth s), height := BitVec.ofNat 32 (headerHeight s)
    maxval := BitVec.ofNat 16 (headerMaxval s), channels := s.cont.read 13, depth := 8 }

/-! ## Bit sequences -/

/-- The bits of a byte, most significant first (rule R63). -/
def byteBits (b : Byte) : List Bool := (List.range 8).map fun k => b.getLsbD (7 - k)

/-- The payload `PAYMEM[0 .. PAY_LEN-1]` as a bit sequence (rule R63). -/
def payloadBits (s : State) : List Bool := (s.pay.readBytes 0 s.payLen.toNat).flatMap byteBits

/-- The bits appended so far (rule R160): the payload's, then `PK_ACC[PK_NB-1]` down to `PK_ACC[0]`. -/
def streamBits (s : State) : List Bool :=
  payloadBits s ++ (List.range s.pkNb.toNat).map fun j => s.pkAcc.getLsbD (s.pkNb.toNat - 1 - j)

/-- The number of payload bits in front of the unpacker's cursor (rule R38). -/
def cursor (s : State) : Nat := 8 * s.upPos.toNat + s.upBit.toNat

/-- The payload bits not yet consumed. -/
def unreadBits (s : State) : List Bool := (payloadBits s).drop (cursor s)

/-- The code of a symbol as a bit sequence, most significant first (rule R106). -/
def symbolBits (tbl : Table) (v : Byte) : List Bool :=
  (List.range tbl.len[v.toNat].toNat).map fun j => tbl.code[v.toNat].getLsbD (tbl.len[v.toNat].toNat - 1 - j)

/-- A bit sequence as bytes, most significant bit first, the last byte padded with zero bits (rules R106, R163). -/
def bytesOfBits (bits : List Bool) : List Byte :=
  (List.range ((bits.length + 7) / 8)).map fun i =>
    BitVec.ofNat 8 ((List.range 8).foldl (fun acc k => 2 * acc + (bits.getD (8 * i + k) false).toNat) 0)

/-! ## Decoding as a function of bits -/

/-- The marks and edges of a trie followed from a node along bits (rule R180): the symbol and the bits left, or why there
is none. -/
def walkSymbol (t : List TrieNode) : Nat → List Bool → Except Cause (Byte × List Bool)
  | node, [] =>
    if (trieNode t node).sym ≠ NONE then .ok ((trieNode t node).sym.setWidth 8, []) else .error .streamExhausted
  | node, b :: bs =>
    if (trieNode t node).sym ≠ NONE then .ok ((trieNode t node).sym.setWidth 8, b :: bs)
    else if (trieNode t node).child b = ABSENT then .error .corruptCodePath
    else walkSymbol t ((trieNode t node).child b).toNat bs

/-- `n` symbols from a bit sequence (rule R183): the symbols and the bits left, or the cause and the index of the first
symbol that cannot be decoded. -/
def walkSymbols (t : List TrieNode) : Nat → Nat → List Bool → Except (Cause × Nat) (List Byte × List Bool)
  | 0, _, bits => .ok ([], bits)
  | n + 1, i, bits =>
    match walkSymbol t 0 bits with
    | .error c => .error (c, i)
    | .ok (v, rest) =>
      match walkSymbols t n (i + 1) rest with
      | .error e => .error e
      | .ok (vs, rest') => .ok (v :: vs, rest')

/-! ## Containers as functions of bytes -/

/-- The code lengths of one channel of an image (rules R131, R140 on its residuals). -/
def channelLengths (d : Dims) (c : Nat) (m : Memory) : Vector (BitVec 8) 256 :=
  huffmanLengths (histogramOf (channelResiduals d c m))

/-- The payload of one channel: the codes of its residual bytes in order, padded (rules R106, R167). -/
def channelPayload (d : Dims) (c : Nat) (m : Memory) : List Byte :=
  bytesOfBits ((channelResiduals d c m).flatMap (symbolBits (canonicalTable (channelLengths d c m))))

/-- The record of one channel (rule R102). -/
def channelRecord (d : Dims) (c : Nat) (m : Memory) : List Byte :=
  (channelLengths d c m).toList ++ le32 (BitVec.ofNat 32 (channelPayload d c m).length) ++ channelPayload d c m

/-- The header of an image (rule R101). -/
def imageHeader (s : State) : List Byte :=
  [s.cfg.magic0, s.cfg.magic1, s.cfg.magic2] ++ le32 s.desc.width ++ le32 s.desc.height ++ le16 s.desc.maxval ++
    [s.desc.channels]

/-- The container of an image (rule R100): the header, then the record of every channel. -/
def imageContainer (s : State) : List Byte :=
  imageHeader s ++ (List.range s.desc.dims.c).flatMap fun c => channelRecord s.desc.dims c s.img

/-! ## The first error of a whole-call command -/

/-- The first index of `PAYMEM` that the packer cannot write: the capacity, or the largest value of `PAY_LEN` (rule R162). -/
def payLimit (cap : Option Nat) : Nat :=
  match cap with
  | none => 2 ^ 64 - 1
  | some k => min k (2 ^ 64 - 1)

/-- The first of the fields of given lengths, written from an offset on, that does not fit the container memory, by its
offset (rule R71). -/
def fieldFault (cap : Option Nat) : Nat → List Nat → Option Nat
  | _, [] => none
  | off, n :: ns => if overCap cap (off + n) then some off else fieldFault cap (off + n) ns

/-- The first check of `CompressChannel(c)` that fails, its record starting at an offset (rules R202, R162, R195). -/
def channelFault (s : State) (c off : Nat) : Option (Cause × Nat) :=
  let d := s.desc.dims
  let p := (channelPayload d c s.img).length
  if overCap s.cfg.resCap d.n then some (.capRes, d.n)
  else if payLimit s.cfg.payCap < p then some (.capPay, payLimit s.cfg.payCap)
  else if 2 ^ 32 ≤ p then some (.payloadTooLarge, p)
  else (fieldFault s.cfg.contCap off [256, 4, p]).map fun pos => (.capCont, pos)

/-- The first error of the channel loop of `COMPRESS` from a channel on, with `ERR_CH = c` (rules R203, R242 item 7). -/
def channelsFault (s : State) : List Nat → Nat → Option Raise
  | [], _ => none
  | c :: cs, off =>
    match channelFault s c off with
    | some (k, pos) => some ⟨k, pos, BitVec.ofNat 2 c⟩
    | none => channelsFault s cs (off + 260 + (channelPayload s.desc.dims c s.img).length)

/-- The first error of `COMPRESS` (rule R203): of the descriptor, of the header, of a channel; `none` when it succeeds. -/
def compressFault (s : State) : Option Raise :=
  match imageFault s with
  | some (k, pos) => some ⟨k, pos, s.curch⟩
  | none =>
    match fieldFault s.cfg.contCap 0 [3, 4, 4, 2, 1] with
    | some pos => some ⟨.capCont, pos, s.curch⟩
    | none => channelsFault s (List.range s.desc.dims.c) 14

/-- The residuals that the channel record at an offset stands for, `n` symbols, and the offset behind it, or the first check
of `DecompressChannel()` that fails (rules R208, R242 item 6). -/
def recordAt (s : State) (n off : Nat) : Except (Cause × Nat) (List Byte × Nat) :=
  let len := lengthBank (s.cont.readBytes off 256)
  let pc := uLE (s.cont.readBytes (off + 256) 4)
  if s.contLen.toNat < off + 256 then .error (.lengths, off)
  else if s.contLen.toNat < off + 260 then .error (.payloadCount, off + 256)
  else if s.contLen.toNat < off + 260 + pc then .error (.payload, off + 260)
  else if overCap s.cfg.payCap pc then .error (.capPay, pc)
  else if 2 ^ 255 < kraftSum (lengthList len) then .error (.badLengthTable, 0)
  else if overCap s.cfg.resCap n then .error (.capRes, n)
  else
    match walkSymbols (trieOf (canonicalTable len)) n 0 ((s.cont.readBytes (off + 260) pc).flatMap byteBits) with
    | .error e => .error e
    | .ok (rs, _) => .ok (rs, off + 260 + pc)

/-- The residuals of the records of the listed channels from an offset on, and the offset behind the last, or the first error
with `ERR_CH = c` (rules R209, R242 item 7). -/
def recordsAt (s : State) (n : Nat) : List Nat → Nat → Except Raise (List (List Byte) × Nat)
  | [], off => .ok ([], off)
  | c :: cs, off =>
    match recordAt s n off with
    | .error (k, pos) => .error ⟨k, pos, BitVec.ofNat 2 c⟩
    | .ok (rs, off') =>
      match recordsAt s n cs off' with
      | .error e => .error e
      | .ok (rss, off'') => .ok (rs :: rss, off'')

/-- The records of the container behind its header. -/
def containerRecords (s : State) : Except Raise (List (List Byte) × Nat) :=
  recordsAt s (headerWidth s * headerHeight s) (List.range (headerChannels s)) 14

end Sys2Proof.Machine
end

