-- ==== Sys2Proof/Certificates/Slice0/Obligations.lean ====
section
/-! DEFINITION. The statements for the provers, each `def Obligations.<Name> : Prop`, after the few words of their own that
they need: the tables of rules R96 and R253, the merge relation of rule R137, host programs of unit commands. -/

open Sys2Proof Sys2Proof.Machine

namespace Sys2Proof.Claims

/-- The error class of a command (rule R96, last column). -/
def errorClass : Instr → ErrClass
  | .compress => .cw
  | .hdrWr => .cw
  | .chnWr => .cw
  | .decompress => .iw
  | .hdrRd => .iw
  | .filtInv _ => .iw
  | _ => .e

/-- The kinds of error a command can raise (rule R253). -/
def raisableKinds : Instr → List Nat
  | .compress => [3, 7]
  | .decompress => [1, 2, 4, 7]
  | .filtFwd _ => [3, 6, 7]
  | .filtInv _ => [3, 5, 6, 7]
  | .hist => [7]
  | .canon => [1]
  | .pkPut _ => [5, 7]
  | .pkFin => [7]
  | .pack => [5, 7]
  | .upBit => [2, 7]
  | .trSym => [2, 4, 7]
  | .dec => [2, 4, 7]
  | .hdrWr => [3, 7]
  | .chnWr => [3, 7]
  | .hdrRd => [1, 2, 7]
  | .chnRd => [2, 7]
  | _ => []

/-- The banks and registers of rule R96. -/
inductive Bank where
  | errorRecord | result | cpos | desc | img | cont | res | freq | len | tbl | pay | pk | up | trie
  deriving DecidableEq, Repr

/-- A bank holds the same in two states. -/
def Bank.Same (s t : State) : Bank → Prop
  | .errorRecord => t.errKind = s.errKind ∧ t.errCause = s.errCause ∧ t.errCh = s.errCh ∧ t.errPos = s.errPos
  | .result => t.result = s.result
  | .cpos => t.cpos = s.cpos
  | .desc => t.desc = s.desc
  | .img => t.img = s.img
  | .cont => t.contLen = s.contLen ∧ t.cont = s.cont
  | .res => t.resN = s.resN ∧ t.res = s.res
  | .freq => t.freq = s.freq
  | .len => t.len = s.len
  | .tbl => t.tbl = s.tbl
  | .pay => t.payLen = s.payLen ∧ t.pay = s.pay
  | .pk => t.pkAcc = s.pkAcc ∧ t.pkNb = s.pkNb
  | .up => t.upPos = s.upPos ∧ t.upBit = s.upBit
  | .trie => t.trie = s.trie

/-- The banks a command may write (rule R96, column "writes"). -/
def writtenBanks : Instr → List Bank
  | .nop => []
  | .clr => [.errorRecord, .result, .cpos, .res, .freq, .len, .tbl, .pay, .pk, .up, .trie]
  | .filtFwd _ => [.res]
  | .filtInv _ => [.img]
  | .hist => [.freq]
  | .huff => [.len]
  | .canon => [.tbl]
  | .pkInit => [.pay, .pk]
  | .pkPut _ => [.pay, .pk]
  | .pkFin => [.pay, .pk]
  | .pack => [.pay, .pk]
  | .upInit => [.up]
  | .upBit => [.up, .result]
  | .trie => [.trie]
  | .trSym => [.up, .result]
  | .dec => [.up, .res]
  | .hdrWr => [.cont, .cpos]
  | .chnWr => [.cont, .cpos]
  | .hdrRd => [.desc, .cpos]
  | .chnRd => [.len, .pay, .cpos]
  | .compress => [.cont, .cpos, .res, .freq, .len, .tbl, .pay, .pk, .up, .trie]
  | .decompress => [.desc, .img, .cpos, .res, .freq, .len, .tbl, .pay, .pk, .up, .trie]

/-- Nothing of the model's own and no parameter differs. -/
def SameOwn (s t : State) : Prop :=
  t.cfg = s.cfg ∧ t.port = s.port ∧ t.running = s.running ∧ t.portData = s.portData ∧ t.busyReads = s.busyReads

/-- `t` with every ephemeral bank as in `s`. -/
def withEphemeralOf (t s : State) : State :=
  { t with
    resN := s.resN, res := s.res, freq := s.freq, len := s.len, tbl := s.tbl, payLen := s.payLen, pay := s.pay
    pkAcc := s.pkAcc, pkNb := s.pkNb, upPos := s.upPos, upBit := s.upBit, trie := s.trie }

/-- The opcodes of rule R94 (a). -/
def reservedOpcode (op : Nat) : Bool :=
  (0x04 ≤ op && op ≤ 0x0F) || (0x12 ≤ op && op ≤ 0x1F) || (0x21 ≤ op && op ≤ 0x2F) || (0x31 ≤ op && op ≤ 0x3F) ||
    (0x41 ≤ op && op ≤ 0x4F) || (0x54 ≤ op && op ≤ 0x57) || (0x5A ≤ op && op ≤ 0x5F) || (0x63 ≤ op && op ≤ 0x6F) ||
    (0x74 ≤ op && op ≤ 0xFF)

/-- The must-be-zero bits of rule R94 (b), for a word whose opcode is not reserved. -/
def reservedBitsSet (w : Nat) : Bool :=
  let op := w % 256
  let a := w / 256 % 256
  w / 65536 ≠ 0 || (op ≠ 0x10 && op ≠ 0x11 && op ≠ 0x51 && a ≠ 0) || ((op == 0x10 || op == 0x11) && a / 4 ≠ 0)

/-- The leaves of rule R135, in ascending symbol order. -/
def leaves (freq : Vector (BitVec 64) 256) : List HuffNode :=
  (List.finRange 256).filterMap fun v => if freq[v] = 0 then none else some (.leaf freq[v].toNat v.val)

/-- `n`, the number of symbols with a nonzero frequency (rule R135). -/
def usedCount (freq : Vector (BitVec 64) 256) : Nat := (List.finRange 256).countP fun v => freq[v] ≠ 0

/-- The merge loop of rule R137 on a heap taken as a set: the two nodes extracted come before every other node of the heap
(rule R136), and their parent, with the next id, takes their place. -/
inductive MergeRun : Nat → List HuffNode → HuffNode → Prop where
  | done (k : Nat) (root : HuffNode) : MergeRun k [root] root
  | merge (k : Nat) (heap rest : List HuffNode) (a b root : HuffNode) (hp : heap.Perm (a :: b :: rest))
      (ha : ∀ m ∈ b :: rest, a.before m = true) (hb : ∀ m ∈ rest, b.before m = true)
      (next : MergeRun (k + 1) (.inner (a.freq + b.freq) (256 + k) a b :: rest) root) : MergeRun k heap root

/-- The depth of the leaf of a symbol (rule R139). -/
inductive DepthOf : HuffNode → Nat → Nat → Prop where
  | leaf (f v : Nat) : DepthOf (.leaf f v) v 0
  | left (f i v d : Nat) (l r : HuffNode) (h : DepthOf l v d) : DepthOf (.inner f i l r) v (d + 1)
  | right (f i v d : Nat) (l r : HuffNode) (h : DepthOf r v d) : DepthOf (.inner f i l r) v (d + 1)

/-- How many symbols have length `l` (rule R151, `l > 0`). -/
def lengthCount (len : Vector (BitVec 8) 256) (l : Nat) : Nat := (List.finRange 256).countP fun v => len[v].toNat = l

/-- `first[L]` in closed form (rule R152): "the sum over `l` from 1 to `L-1` of `count[l] * 2^(L-l)`". -/
def firstClosed (len : Vector (BitVec 8) 256) (l : Nat) : Nat :=
  ((List.range l).map fun k => if k = 0 then 0 else lengthCount len k * 2 ^ (l - k)).sum

/-- The number of symbols before `v` with the same length as `v` (rule R153). -/
def rankOf (len : Vector (BitVec 8) 256) (v : Fin 256) : Nat :=
  (List.finRange 256).countP fun u => u < v && len[u] == len[v]

/-- The node that a walk along bits reaches, or none when an edge is absent. -/
def walkTo (t : List TrieNode) : Nat → List Bool → Option Nat
  | node, [] => some node
  | node, b :: bs => if (trieNode t node).child b = ABSENT then none else walkTo t ((trieNode t node).child b).toNat bs

/-- The invariants of the `TRIE` bank (rule R39). -/
structure TrieShape (t : List TrieNode) : Prop where
  size : 1 ≤ t.length ∧ t.length ≤ 65281
  children : ∀ i b, i < t.length → (trieNode t i).child b ≠ ABSENT → ((trieNode t i).child b).toNat < t.length
  oneParent : ∀ j, 0 < j → j < t.length →
    ∃ i b, (i < t.length ∧ ((trieNode t i).child b).toNat = j) ∧
      ∀ i' b', i' < t.length → ((trieNode t i').child b').toNat = j → i' = i ∧ b' = b
  rootNoChild : ∀ i b, i < t.length → ((trieNode t i).child b).toNat ≠ 0
  markedIsLeaf : ∀ i, i < t.length → (trieNode t i).sym ≠ NONE →
    (trieNode t i).sym.toNat < 256 ∧ (trieNode t i).c0 = ABSENT ∧ (trieNode t i).c1 = ABSENT
  innerHasChild : ∀ i, 0 < i → i < t.length → (trieNode t i).sym = NONE →
    (trieNode t i).c0 ≠ ABSENT ∨ (trieNode t i).c1 ≠ ABSENT

/-- What an illegal word leaves (rules R94 (e), R240): `s` is the state in which it was accepted. -/
def IllegalLeaves (w : Word) (e : DecodeError) (s t : State) : Prop :=
  t.status = .error ∧ t.errKind = 6 ∧ t.errCause = (if e = .reservedOpcode then 0x60 else 0x61) ∧
  t.errCh = s.curch ∧ t.errPos = w.setWidth 64 ∧ t.cpos = 0 ∧ t.curch = NOCH ∧ EphemeralClear t ∧
  t.result = s.result ∧ t.desc = s.desc ∧ t.img = s.img ∧ t.contLen = s.contLen ∧ t.cont = s.cont ∧ SameOwn s t

/-- A host write to `RES`, `FREQ`, `LEN` or `PAY`, the ephemeral banks a host can write (rule R65). -/
def ephemeralWrite : HostEvent → Bool
  | .write space i _ => space == 3 || space == 4 || space == 5 || space == 6 || (space == 0 && (i == 17 || i == 18))
  | .read _ _ => false
  | .wait => false
  | .reset => false

/-- A sequence of commands, each executed on the state the one before left. -/
def runCommands : List Instr → State → Host.Outcome State Fault Refusal
  | [], s => .next s
  | i :: is, s =>
    match exec i s with
    | .next t => runCommands is t
    | .fault f => .fault f
    | .refused r => .refused r

/-- The unit commands of one channel on the compress side (rule R215). -/
def compressUnits (c : Byte) : List Instr := [.filtFwd c, .hist, .huff, .canon, .pack, .chnWr]

/-- One channel on the decompress side (rule R215), with the host's write of `RES_N` in its place. -/
def decompressUnits (n : Nat) (c : Byte) (s : State) : Host.Outcome State Fault Refusal :=
  match runCommands [.chnRd, .canon, .trie] s with
  | .next t => runCommands [.dec, .filtInv c] (hostStore t 0 17 n)
  | .fault f => .fault f
  | .refused r => .refused r

/-- The channels on the decompress side, in order. -/
def decompressChannels (n : Nat) : List Nat → State → Host.Outcome State Fault Refusal
  | [], s => .next s
  | c :: cs, s =>
    match decompressUnits n (BitVec.ofNat 8 c) s with
    | .next t => decompressChannels n cs t
    | .fault f => .fault f
    | .refused r => .refused r

/-- The width of a host-writable register of space `REG`, by number (rule R42). -/
def writableWidth : Nat → Option Nat
  | 8 => some 32
  | 9 => some 32
  | 10 => some 16
  | 11 => some 8
  | 12 => some 8
  | 16 => some 64
  | 17 => some 64
  | 18 => some 64
  | _ => none

/-- The width of a host-writable element in range (rules R42, R43), `none` where a host write is ignored. -/
def elementWidth (p : Params) (space i : Nat) : Option Nat :=
  match space with
  | 0 => writableWidth i
  | 1 => if overCap p.imgCap (i + 1) then none else some 8
  | 2 => if overCap p.contCap (i + 1) then none else some 8
  | 3 => if overCap p.resCap (i + 1) then none else some 8
  | 4 => if overCap p.payCap (i + 1) then none else some 8
  | 5 => if i < 256 then some 64 else none
  | 6 => if i < 256 then some 8 else none
  | _ => none

/-- Whether `n` more bytes fit behind the payload: within the capacity and the width of `PAY_LEN` (rule R162). -/
def payRoom (s : State) (n : Nat) : Bool := !overCap s.cfg.payCap (s.payLen.toNat + n) && s.payLen.toNat + n < 2 ^ 64

/-- The register numbers of rule R42. -/
def isRegister (n : Nat) : Bool := n ≤ 5 || (8 ≤ n && n ≤ 12) || (16 ≤ n && n ≤ 24)

end Sys2Proof.Claims

open Sys2Proof.Claims

/-! ## Encoding -/

/-- Rules R90 to R92: the decoder reads back every word the encoder writes, operand included. -/
def Obligations.DecodeInvertsEncode : Prop := ∀ i : Instr, i.wf = true → decode (encode i) = .ok i

/-- Rule R94 (d): no other word executes as a command: a word that decodes is the command's own word. -/
def Obligations.DecodedWordsEncodeBack : Prop := ∀ (w : Word) (i : Instr), decode w = .ok i → encode i = w ∧ i.wf = true

/-- Words written out from rule R92 and the vectors of 95_test_vectors decode to the commands they stand for. -/
def Obligations.SpecWordsDecode : Prop :=
  decode 0x00000000 = .ok .nop ∧ decode 0x00000001 = .ok .compress ∧ decode 0x00000003 = .ok .clr ∧
  decode 0x00000110 = .ok (.filtFwd 1) ∧ decode 0x00000311 = .ok (.filtInv 3) ∧ decode 0x00000020 = .ok .hist ∧
  decode 0x00000030 = .ok .huff ∧ decode 0x00000040 = .ok .canon ∧ decode 0x00000A51 = .ok (.pkPut 10) ∧
  decode 0x0000FF51 = .ok (.pkPut 255) ∧ decode 0x00000059 = .ok .upBit ∧ decode 0x00000062 = .ok .dec ∧
  decode 0x00000073 = .ok .chnRd ∧ decode 0x00010004 = .error .reservedOpcode ∧ decode 0x00000410 = .error .reservedBits

/-- Rule R94 (a) to (c): which words are rejected, and by which name. -/
def Obligations.ReservedWordsAreRejected : Prop :=
  ∀ w : Word,
    (decode w = .error .reservedOpcode ↔ reservedOpcode (w.toNat % 256) = true) ∧
    (decode w = .error .reservedBits ↔ reservedOpcode (w.toNat % 256) = false ∧ reservedBitsSet w.toNat = true) ∧
    ((∃ i, decode w = .ok i) ↔ reservedOpcode (w.toNat % 256) = false ∧ reservedBitsSet w.toNat = false)

/-! ## The step -/

/-- Rules R93, R252, R261, with the host's list of events and the wait the model adds (logs 1, 2). In IDLE and DONE a word
written to `CMD` that decodes is executed, from the state in which `STATE` is BUSY and the events used have left the list,
when the host then waits or does nothing more; when it does anything else first, the block is left BUSY with the word in
`running`. A word in `running` is executed at the next wait or at the end of the list. With no word in `running`, the end of
the list and a wait change nothing. -/
def Obligations.StepRunsDecodedCommand : Prop :=
  (∀ (s : State) (w : Word) (i : Instr) (rest : List HostEvent),
    (s.status = .idle ∨ s.status = .done) → decode w = .ok i →
    step { s with port := .write 0 0 w.toNat :: .wait :: rest } = exec i { s with port := rest, status := .busy } ∧
    step { s with port := [.write 0 0 w.toNat] } = exec i { s with port := [], status := .busy }) ∧
  (∀ (s : State) (w : Word) (e : HostEvent) (rest : List HostEvent),
    (s.status = .idle ∨ s.status = .done) → e ≠ .wait →
    step { s with port := .write 0 0 w.toNat :: e :: rest } =
      .next { s with port := e :: rest, status := .busy, running := some w }) ∧
  (∀ (s : State) (w : Word) (i : Instr) (rest : List HostEvent), s.running = some w → decode w = .ok i →
    step { s with port := .wait :: rest } = exec i { s with port := rest, running := none } ∧
    step { s with port := [] } = exec i { s with port := [], running := none }) ∧
  (∀ (s : State) (rest : List HostEvent), s.running = none →
    step { s with port := [] } = .next { s with port := [] } ∧
    step { s with port := .wait :: rest } = .next { s with port := rest })

/-- Rules R93, R94 (e), with the host's list of events and the wait the model adds (logs 1, 2): an accepted word that is no
command raises `IllegalCommand` with the word in `ERR_POS`, when the host waits or does nothing more; the host-owned banks and
`RESULT` keep their values and the ephemeral banks are cleared. -/
def Obligations.IllegalWordRaises : Prop :=
  (∀ (s : State) (w : Word) (e : DecodeError) (rest : List HostEvent),
    (s.status = .idle ∨ s.status = .done) → decode w = .error e →
    (∃ t, step { s with port := .write 0 0 w.toNat :: .wait :: rest } = .next t ∧
      IllegalLeaves w e { s with port := rest } t) ∧
    ∃ t, step { s with port := [.write 0 0 w.toNat] } = .next t ∧ IllegalLeaves w e { s with port := [] } t) ∧
  (∀ (s : State) (w : Word) (e : DecodeError) (rest : List HostEvent), s.running = some w → decode w = .error e →
    (∃ t, step { s with port := .wait :: rest } = .next t ∧
      IllegalLeaves w e { s with port := rest, running := none } t) ∧
    ∃ t, step { s with port := [] } = .next t ∧ IllegalLeaves w e { s with port := [], running := none } t)

/-- Rule R93: in ERROR every word but `CLR` is dropped without trace, and `CLR` is executed. That `CLR` ends in IDLE in the
same step, without a BUSY phase, whatever the host does next, is the model's reading of R93 (log 14, DEDUCED). -/
def Obligations.ErrorStateAcceptsOnlyClr : Prop :=
  ∀ (s : State) (w : Word) (rest : List HostEvent), s.status = .error →
    (w ≠ 0x00000003 → step { s with port := .write 0 0 w.toNat :: rest } = .next { s with port := rest }) ∧
    (w = 0x00000003 → ∃ t, step { s with port := .write 0 0 w.toNat :: rest } = .next t ∧
      t.status = .idle ∧ t.errKind = 0 ∧ t.errCause = 0 ∧ t.errCh = 0 ∧ t.errPos = 0)

/-- Rule R67: while BUSY, `STATUS` reads 1, no host access changes anything of the block, also not a write to `CMD`. (What
another read returns is a free value: log 5. `portData` and `busyReads` are the model's own.) -/
def Obligations.BusyPortIsInert : Prop :=
  ∀ (s : State) (rest : List HostEvent) (space i v : Nat), s.status = .busy →
    step { s with port := .write space i v :: rest } = .next { s with port := rest } ∧
    step { s with port := .read 0 1 :: rest } = .next { s with port := rest, portData := 1 } ∧
    ∃ t, step { s with port := .read space i :: rest } = .next t ∧
      { t with portData := s.portData, busyReads := s.busyReads } = { s with port := rest }

/-- Rules R260, R49: hardware reset, in any state, also while a command executes, leaves every register at its reset value
and all four memories unspecified; the registers do not depend on the state before. That the rest of the host's list and the
parameters stay is the model's choice (log 10, DESIGN CHOICE). -/
def Obligations.HardwareResetGivesResetValues : Prop :=
  ∀ (s : State) (rest : List HostEvent),
    ∃ t, step { s with port := .reset :: rest } = .next t ∧
      t.status = .idle ∧ t.errKind = 0 ∧ t.errCause = 0 ∧ t.errCh = 0 ∧ t.errPos = 0 ∧ t.result = 0 ∧ t.cpos = 0 ∧
      t.curch = 3 ∧ t.desc = { width := 0, height := 0, maxval := 0, channels := 0, depth := 0 } ∧ t.contLen = 0 ∧
      EphemeralClear t ∧ t.running = none ∧ t.port = rest ∧ t.cfg = s.cfg ∧
      t.img.cells = [] ∧ t.cont.cells = [] ∧ t.res.cells = [] ∧ t.pay.cells = []

/-- Rule R49: the registers of the state after reset. -/
def Obligations.ResetStateHasTheReset49Values : Prop :=
  let t := State.reset
  t.status = .idle ∧ t.statusWord = 0 ∧ t.errWord = 0 ∧ t.errPos = 0 ∧ t.result = 0 ∧ t.cpos = 0 ∧ t.curch = 3 ∧
  t.desc.width = 0 ∧ t.desc.height = 0 ∧ t.desc.maxval = 0 ∧ t.desc.channels = 0 ∧ t.desc.depth = 0 ∧ t.contLen = 0 ∧
  t.resN = 0 ∧ t.payLen = 0 ∧ (∀ v : Fin 256, t.freq[v] = 0 ∧ t.len[v] = 0 ∧ t.tbl.len[v] = 0 ∧ t.tbl.code[v] = 0) ∧
  t.tbl.maxLen = 0 ∧ t.pkAcc = 0 ∧ t.pkNb = 0 ∧ t.upPos = 0 ∧ t.upBit = 0 ∧
  t.trie = [{ c0 := 0xFFFF, c1 := 0xFFFF, sym := 0x100 }] ∧
  t.img.cells = [] ∧ t.cont.cells = [] ∧ t.res.cells = [] ∧ t.pay.cells = []

/-! ## The host port -/

/-- Rules R64 to R66, with the host's list of events (log 2) and the field that holds what a read returned (log 5): when the
block is not BUSY, a step on a host write to a writable element in range stores the value modulo `2^N`, and a step on a host
read of the element then returns it. -/
def Obligations.HostWriteReadsBack : Prop :=
  ∀ (s : State) (space i v n : Nat) (rest : List HostEvent), s.status ≠ .busy → elementWidth s.cfg space i = some n →
    hostRead (portStore space i v s) space i = v % 2 ^ n ∧
    ∃ t u, step { s with port := .write space i v :: .read space i :: rest } = .next t ∧
      t = portStore space i v { s with port := .read space i :: rest } ∧
      step t = .next u ∧ u.port = rest ∧ u.portData = v % 2 ^ n ∧
      { u with port := t.port, portData := t.portData } = t

/-- Rules R64, R65, R42, R43, with the host's list of events (log 2) and the field that holds what a read returned (log 5): a
step on a host read of a block that is not BUSY returns the element's value and changes nothing else; a step on a write to a
read-only, reserved or out-of-range element changes nothing. The value of every readable element, and the fixed value that
`CMD`, reserved numbers and out-of-range indices read. -/
def Obligations.IgnoredWritesAndFixedReads : Prop :=
  (∀ (s : State) (space i : Nat) (rest : List HostEvent), s.status ≠ .busy →
    step { s with port := .read space i :: rest } = .next { s with port := rest, portData := hostRead s space i }) ∧
  (∀ (s : State) (space i v : Nat) (rest : List HostEvent), elementWidth s.cfg space i = none →
    portStore space i v s = s ∧
    ((space, i) ≠ (0, 0) → step { s with port := .write space i v :: rest } = .next { s with port := rest })) ∧
  (∀ s : State,
    hostRead s 0 1 = (match s.status with | .idle => 0 | .busy => 1 | .done => 2 | .error => 3) ∧
    hostRead s 0 2 = s.errKind.toNat + 256 * s.errCause.toNat + 65536 * s.errCh.toNat ∧
    hostRead s 0 3 = s.errPos.toNat ∧ hostRead s 0 4 = s.result.toNat ∧ hostRead s 0 5 = s.cpos.toNat ∧
    hostRead s 0 8 = s.desc.width.toNat ∧ hostRead s 0 9 = s.desc.height.toNat ∧ hostRead s 0 10 = s.desc.maxval.toNat ∧
    hostRead s 0 11 = s.desc.channels.toNat ∧ hostRead s 0 12 = s.desc.depth.toNat ∧ hostRead s 0 16 = s.contLen.toNat ∧
    hostRead s 0 17 = s.resN.toNat ∧ hostRead s 0 18 = s.payLen.toNat ∧ hostRead s 0 19 = s.tbl.maxLen.toNat ∧
    hostRead s 0 20 = s.pkAcc.toNat ∧ hostRead s 0 21 = s.pkNb.toNat ∧ hostRead s 0 22 = s.upPos.toNat ∧
    hostRead s 0 23 = s.upBit.toNat ∧ hostRead s 0 24 = s.trie.length) ∧
  (∀ (s : State) (i : Nat),
    (i = 0 ∨ isRegister i = false → hostRead s 0 i = 0) ∧
    hostRead s 1 i = (if overCap s.cfg.imgCap (i + 1) then 0 else (s.img.read i).toNat) ∧
    hostRead s 2 i = (if overCap s.cfg.contCap (i + 1) then 0 else (s.cont.read i).toNat) ∧
    hostRead s 3 i = (if overCap s.cfg.resCap (i + 1) then 0 else (s.res.read i).toNat) ∧
    hostRead s 4 i = (if overCap s.cfg.payCap (i + 1) then 0 else (s.pay.read i).toNat) ∧
    (256 ≤ i → hostRead s 5 i = 0 ∧ hostRead s 6 i = 0 ∧ hostRead s 7 i = 0 ∧ hostRead s 8 i = 0) ∧
    (s.trie.length ≤ i → hostRead s 9 i = 0xFFFF ∧ hostRead s 10 i = 0xFFFF ∧ hostRead s 11 i = 0x100) ∧
    (i < s.trie.length → hostRead s 9 i = (trieNode s.trie i).c0.toNat ∧ hostRead s 10 i = (trieNode s.trie i).c1.toNat ∧
      hostRead s 11 i = (trieNode s.trie i).sym.toNat)) ∧
  (∀ (s : State) (v : Fin 256),
    hostRead s 5 v = s.freq[v].toNat ∧ hostRead s 6 v = s.len[v].toNat ∧ hostRead s 7 v = s.tbl.len[v].toNat ∧
    hostRead s 8 v = s.tbl.code[v].toNat) ∧
  (∀ (s : State) (space i : Nat), 11 < space → hostRead s space i = 0)

/-- Rule R65, with the host's list of events (log 2): a step on a host write to any element but `CMD` is the store. "Apart
from `CMD`, a write has no effect other than the store": every other element reads as before, and no command result, error
record or state of the sequencer changes. -/
def Obligations.HostWriteChangesOnlyItsElement : Prop :=
  ∀ (s : State) (space i v : Nat),
    ((space, i) ≠ (0, 0) → ∀ rest : List HostEvent,
      step { s with port := .write space i v :: rest } = .next (portStore space i v { s with port := rest })) ∧
    (∀ space' i', (space', i') ≠ (space, i) → hostRead (portStore space i v s) space' i' = hostRead s space' i') ∧
    (portStore space i v s).status = s.status ∧ (portStore space i v s).curch = s.curch ∧
    (portStore space i v s).tbl = s.tbl ∧ (portStore space i v s).trie = s.trie ∧ SameOwn s (portStore space i v s)

/-! ## Control, errors, whole-machine rules -/

/-- Rules R220, R164, R172: `NOP`, `PK.INIT` and `UP.INIT` complete in every state, and what each leaves. -/
def Obligations.NopAndInitCommandsComplete : Prop :=
  ∀ s : State,
    exec .nop s = .next { s with status := .done, curch := NOCH } ∧
    exec .pkInit s = .next { s with status := .done, curch := NOCH, payLen := 0, pkAcc := 0, pkNb := 0 } ∧
    exec .upInit s = .next { s with status := .done, curch := NOCH, upPos := 0, upBit := 0 }

/-- Rule R221: `CLR` completes in every state, in IDLE, with the error record, `RESULT`, `CPOS` and the ephemeral banks
cleared; the host-owned banks keep what they have. -/
def Obligations.ClrReturnsToIdle : Prop :=
  ∀ s : State, ∃ t, exec .clr s = .next t ∧
    t.status = .idle ∧ t.errKind = 0 ∧ t.errCause = 0 ∧ t.errCh = 0 ∧ t.errPos = 0 ∧ t.result = 0 ∧ t.cpos = 0 ∧
    t.curch = NOCH ∧ EphemeralClear t ∧ t.res.cells = [] ∧ t.pay.cells = [] ∧
    t.desc = s.desc ∧ t.img = s.img ∧ t.contLen = s.contLen ∧ t.cont = s.cont ∧ SameOwn s t

/-- Rule R240: what `raise` leaves, for each class. -/
def Obligations.RaiseRecordsAndClears : Prop :=
  ∀ (cls : ErrClass) (c : Cause) (pos : Nat) (s : State),
    let t := raise cls (s.failure c pos) s
    t.status = .error ∧ t.errCause = c.code ∧ t.errKind.toNat = c.code.toNat / 16 ∧ t.errCh = s.curch ∧
    t.errPos.toNat = pos % 2 ^ 64 ∧ EphemeralClear t ∧ t.res.cells = [] ∧ t.pay.cells = [] ∧ t.cpos = 0 ∧
    t.curch = NOCH ∧ t.result = s.result ∧ SameOwn s t ∧
    (cls = .cw → t.contLen = 0 ∧ t.cont.cells = [] ∧ t.desc = s.desc ∧ t.img = s.img) ∧
    (cls = .iw → t.desc = { width := 0, height := 0, maxval := 0, channels := 0, depth := 0 } ∧ t.img.cells = [] ∧
      t.contLen = s.contLen ∧ t.cont = s.cont) ∧
    (cls = .e → t.contLen = s.contLen ∧ t.cont = s.cont ∧ t.desc = s.desc ∧ t.img = s.img)

/-- Rules R243, R246: whatever command fails, on whatever state, the state after the error is the raise of its class, "a
function of the error alone and of the untouched banks, never of how far the command had got". -/
def Obligations.ErrorsLeaveTheRaisedState : Prop :=
  ∀ (i : Instr) (s t : State), exec i s = .next t → t.status = .error →
    ∃ (c : Cause) (pos : Nat) (ch : BitVec 2), t = raise (errorClass i) { cause := c, pos := pos, ch := ch } s

/-- Rule R253 (derived there): a command raises only the kinds of its row, and never `RESERVED_OPCODE` or `RESERVED_BITS`. -/
def Obligations.CommandsRaiseOnlyTheirKinds : Prop :=
  ∀ (i : Instr) (s t : State), exec i s = .next t → t.status = .error →
    t.errKind.toNat ∈ raisableKinds i ∧ t.errCause ≠ 0x60 ∧ t.errCause ≠ 0x61

/-- Rules R272 (derived there), R93, R41: every command on every state ends, in DONE, in ERROR, or (`CLR` only) in IDLE, with `curch` at
NOCH. -/
def Obligations.EveryCommandEnds : Prop :=
  ∀ (i : Instr) (s : State), ∃ t, exec i s = .next t ∧ t.curch = NOCH ∧
    (t.status = .done ∨ t.status = .error ∨ (i = .clr ∧ t.status = .idle)) ∧ (i = .clr → t.status = .idle)

/-- Rules R44, R96: a command that does not fail leaves every bank its row does not list, and nothing of the model's own
changes. -/
def Obligations.CommandsWriteOnlyTheirBanks : Prop :=
  ∀ (i : Instr) (s t : State), exec i s = .next t → t.status ≠ .error →
    (∀ b : Bank, b ∉ writtenBanks i → b.Same s t) ∧ SameOwn s t

/-- Rule R80, input checks: a bank whose count is above its capacity is refused before anything else is done with it, and
`DEC` checks `RES` before `PAY`. -/
def Obligations.InputChecksRaiseCapacity : Prop :=
  ∀ (s : State) (c : Byte),
    (overCap s.cfg.resCap s.resN.toNat = true →
      (∀ i ∈ [Instr.hist, .pack, .dec], exec i s = .next (raise .e ⟨.capRes, s.resN.toNat, s.curch⟩ s)) ∧
      exec (.filtInv c) s = .next (raise .iw ⟨.capRes, s.resN.toNat, c.setWidth 2⟩ s)) ∧
    (overCap s.cfg.payCap s.payLen.toNat = true →
      (∀ i ∈ [Instr.upBit, .trSym], exec i s = .next (raise .e ⟨.capPay, s.payLen.toNat, s.curch⟩ s)) ∧
      exec .chnWr s = .next (raise .cw ⟨.capPay, s.payLen.toNat, s.curch⟩ s) ∧
      (overCap s.cfg.resCap s.resN.toNat = false →
        exec .dec s = .next (raise .e ⟨.capPay, s.payLen.toNat, s.curch⟩ s))) ∧
    (overCap s.cfg.contCap s.contLen.toNat = true →
      exec .chnRd s = .next (raise .e ⟨.capCont, s.contLen.toNat, s.curch⟩ s) ∧
      (∀ i ∈ [Instr.hdrRd, .decompress], exec i s = .next (raise .iw ⟨.capCont, s.contLen.toNat, s.curch⟩ s)))

/-! ## Residual filter -/

/-- Rule R120: `FwdRow`. -/
def Obligations.ForwardRowIsDifferences : Prop :=
  (∀ row : List Byte, (fwdRow row).length = row.length ∧
    ∀ x, x < row.length → ((fwdRow row).getD x 0).toNat =
      if x = 0 then (row.getD 0 0).toNat else ((row.getD x 0).toNat + 256 - (row.getD (x - 1) 0).toNat) % 256) ∧
  fwdRow [0, 255, 0, 128, 127] = [0, 255, 1, 128, 255]

/-- Rule R121: `InvRow`, as a recurrence and as a running sum. -/
def Obligations.InverseRowIsRunningSum : Prop :=
  (∀ row : List Byte, (invRow row).length = row.length ∧
    ∀ x, x < row.length →
      ((invRow row).getD x 0).toNat = ((row.take (x + 1)).map BitVec.toNat).sum % 256 ∧
      (invRow row).getD x 0 = if x = 0 then row.getD 0 0 else (invRow row).getD (x - 1) 0 + row.getD x 0) ∧
  invRow [0, 255, 1, 128, 255] = [0, 255, 0, 128, 127]

/-- Rule R122 (its second half is the spec's own inference, marked derived there): both row functions are inverse to each
other on the rows of every length. -/
def Obligations.FilterIsBijective : Prop :=
  ∀ row : List Byte, invRow (fwdRow row) = row ∧ fwdRow (invRow row) = row ∧
    (fwdRow row).length = row.length ∧ (invRow row).length = row.length

/-- Rule R123: `FILT.FWD c` on a valid descriptor completes; the residual of every sample, all other cells of `RESMEM`, and
everything else. -/
def Obligations.FiltFwdWritesTheResiduals : Prop :=
  ∀ (c : Byte) (s : State), imageFault s = none → c.toNat < s.desc.channels.toNat →
    overCap s.cfg.resCap (s.desc.width.toNat * s.desc.height.toNat) = false →
    ∃ t, exec (.filtFwd c) s = .next t ∧ t.status = .done ∧ t.curch = NOCH ∧
      t.resN.toNat = s.desc.width.toNat * s.desc.height.toNat ∧
      (∀ y x, y < s.desc.height.toNat → x < s.desc.width.toNat →
        t.res.read (y * s.desc.width.toNat + x) =
          if x = 0 then s.img.read ((y * s.desc.width.toNat + x) * s.desc.channels.toNat + c.toNat)
          else s.img.read ((y * s.desc.width.toNat + x) * s.desc.channels.toNat + c.toNat) -
            s.img.read ((y * s.desc.width.toNat + (x - 1)) * s.desc.channels.toNat + c.toNat)) ∧
      (∀ a, s.desc.width.toNat * s.desc.height.toNat ≤ a → t.res.read a = s.res.read a) ∧
      { t with resN := s.resN, res := s.res, status := s.status, curch := s.curch } = s

/-- Rule R124: `FILT.INV c` with exactly `W * H` residuals completes; every sample of channel `c` is the running sum of its
row's residuals, every other cell of `IMGMEM` and everything else keeps its value. -/
def Obligations.FiltInvWritesTheSamples : Prop :=
  ∀ (c : Byte) (s : State), overCap s.cfg.resCap s.resN.toNat = false → imageFault s = none →
    c.toNat < s.desc.channels.toNat → s.resN.toNat = s.desc.width.toNat * s.desc.height.toNat →
    ∃ t, exec (.filtInv c) s = .next t ∧ t.status = .done ∧ t.curch = NOCH ∧
      (∀ y x, y < s.desc.height.toNat → x < s.desc.width.toNat →
        (t.img.read ((y * s.desc.width.toNat + x) * s.desc.channels.toNat + c.toNat)).toNat =
          ((List.range (x + 1)).map fun k => (s.res.read (y * s.desc.width.toNat + k)).toNat).sum % 256) ∧
      (∀ a, (∀ y x, y < s.desc.height.toNat → x < s.desc.width.toNat →
          a ≠ (y * s.desc.width.toNat + x) * s.desc.channels.toNat + c.toNat) → t.img.read a = s.img.read a) ∧
      { t with img := s.img, status := s.status, curch := s.curch } = s

/-- Rules R123, R124, R190, R242: the errors of the two filter commands and their order; `ERR_CH` is the channel operand. -/
def Obligations.FilterCommandsRejectInOrder : Prop :=
  ∀ (c : Byte) (s : State),
    (∀ k p, imageFault s = some (k, p) → exec (.filtFwd c) s = .next (raise .e ⟨k, p, c.setWidth 2⟩ s)) ∧
    (imageFault s = none → s.desc.channels.toNat ≤ c.toNat →
      exec (.filtFwd c) s = .next (raise .e ⟨.badChannel, c.toNat, c.setWidth 2⟩ s)) ∧
    (imageFault s = none → c.toNat < s.desc.channels.toNat →
      overCap s.cfg.resCap (s.desc.width.toNat * s.desc.height.toNat) = true →
      exec (.filtFwd c) s = .next (raise .e ⟨.capRes, s.desc.width.toNat * s.desc.height.toNat, c.setWidth 2⟩ s)) ∧
    (overCap s.cfg.resCap s.resN.toNat = false →
      (∀ k p, imageFault s = some (k, p) → exec (.filtInv c) s = .next (raise .iw ⟨k, p, c.setWidth 2⟩ s)) ∧
      (imageFault s = none → s.desc.channels.toNat ≤ c.toNat →
        exec (.filtInv c) s = .next (raise .iw ⟨.badChannel, c.toNat, c.setWidth 2⟩ s)) ∧
      (imageFault s = none → c.toNat < s.desc.channels.toNat →
        s.resN.toNat ≠ s.desc.width.toNat * s.desc.height.toNat →
        exec (.filtInv c) s = .next (raise .iw ⟨.sizeMismatch, s.resN.toNat, c.setWidth 2⟩ s)))

/-! ## Histogram -/

/-- Rule R130: the counts, their sum, their bound, the empty sequence, independence of order. -/
def Obligations.HistogramCounts : Prop :=
  ∀ r : List Byte, r.length < 2 ^ 64 →
    (∀ v : Fin 256, (histogramOf r)[v].toNat = ((List.range r.length).countP fun i => (r.getD i 0).toNat = v.val)) ∧
    ((histogramOf r).toList.map BitVec.toNat).sum = r.length ∧
    (∀ v : Fin 256, (histogramOf r)[v].toNat ≤ r.length) ∧
    (r = [] → ∀ v : Fin 256, (histogramOf r)[v] = 0) ∧
    ∀ r' : List Byte, r.Perm r' → histogramOf r' = histogramOf r

/-- Rule R131: `HIST` completes when `RES_N` is within the capacity, counts the residual bytes, and changes nothing else. -/
def Obligations.HistCountsTheResiduals : Prop :=
  ∀ s : State, overCap s.cfg.resCap s.resN.toNat = false →
    ∃ t, exec .hist s = .next t ∧ t.status = .done ∧ t.curch = NOCH ∧
      (∀ v : Fin 256, t.freq[v].toNat = (List.range s.resN.toNat).countP fun i => (s.res.read i).toNat = v.val) ∧
      { t with freq := s.freq, status := s.status, curch := s.curch } = s

/-! ## Huffman tree builder -/

/-- Rules R135 to R140: `HUFF` completes in every state; the lengths are the leaf depths of the tree that the merge loop of
rule R137 builds, with the special cases of rule R138; nothing else changes. -/
def Obligations.HuffBuildsTheMergeTree : Prop :=
  ∀ s : State, ∃ t, exec .huff s = .next t ∧ t.status = .done ∧ t.curch = NOCH ∧
    (∀ v : Fin 256, s.freq[v] = 0 → t.len[v] = 0) ∧
    (usedCount s.freq = 1 → ∀ v : Fin 256, s.freq[v] ≠ 0 → t.len[v] = 1) ∧
    (2 ≤ usedCount s.freq → ∃ root, MergeRun 0 (leaves s.freq) root ∧
      ∀ v : Fin 256, s.freq[v] ≠ 0 → DepthOf root v.val t.len[v].toNat) ∧
    { t with len := s.len, status := s.status, curch := s.curch } = s

/-- Rule R142 (the spec's own inference, marked derived there): the Kraft sum of the lengths `HUFF` writes, in units of
`2^-255`: exactly 1 for two or more used symbols, 1/2 for one, 0 for none; so `CANON` does not raise on them. -/
def Obligations.HuffLengthsAreKraftValid : Prop :=
  ∀ s t : State, exec .huff s = .next t →
    (2 ≤ usedCount s.freq → kraftSum (lengthList t.len) = 2 ^ 255) ∧
    (usedCount s.freq = 1 → kraftSum (lengthList t.len) = 2 ^ 254) ∧
    (usedCount s.freq = 0 → kraftSum (lengthList t.len) = 0) ∧
    ∃ u, exec .canon t = .next u ∧ u.status = .done

/-- Rules R143 (derived there), R138: `HUFF` gives a used symbol a length from 1 to `n - 1` (1 when it is the only one), and
an unused symbol 0. -/
def Obligations.HuffLengthsAreBounded : Prop :=
  ∀ (s t : State) (v : Fin 256), exec .huff s = .next t →
    (s.freq[v] = 0 → t.len[v] = 0) ∧
    (s.freq[v] ≠ 0 → 1 ≤ t.len[v].toNat ∧
      (2 ≤ usedCount s.freq → t.len[v].toNat ≤ usedCount s.freq - 1) ∧
      (usedCount s.freq = 1 → t.len[v].toNat = 1))

/-! ## Canonical code assigner -/

/-- Rules R150 to R155: `CANON` on a Kraft-valid table completes and writes lengths, codes and the largest length; on any
other table it raises `BAD_LENGTH_TABLE` with position 0. -/
def Obligations.CanonBuildsTheTable : Prop :=
  ∀ s : State,
    (KraftValid s.len → ∃ t, exec .canon s = .next t ∧ t.status = .done ∧ t.curch = NOCH ∧ t.tbl = canonicalTable s.len ∧
      t.tbl.len = s.len ∧
      (∀ v : Fin 256, s.len[v].toNat ≤ t.tbl.maxLen.toNat) ∧
      (t.tbl.maxLen = 0 ∨ ∃ v : Fin 256, s.len[v] = t.tbl.maxLen) ∧
      (∀ v : Fin 256, s.len[v] = 0 → t.tbl.code[v] = 0) ∧
      (∀ v : Fin 256, s.len[v] ≠ 0 → t.tbl.code[v].toNat = firstClosed s.len s.len[v].toNat + rankOf s.len v) ∧
      { t with tbl := s.tbl, status := s.status, curch := s.curch } = s) ∧
    (¬ KraftValid s.len → exec .canon s = .next (raise .e ⟨.badLengthTable, 0, s.curch⟩ s))

/-- Rule R152: the running formula, its closed form, and (the spec's own inference, marked derived there) that the codes of
every length have room in a Kraft-valid table. -/
def Obligations.FirstCodesLeaveRoom : Prop :=
  ∀ len : Vector (BitVec 8) 256,
    (∀ l, firstCode (lengthList len) (l + 1) =
      (firstCode (lengthList len) l + if l = 0 then 0 else lengthCount len l) * 2) ∧
    (∀ l, 1 ≤ l → firstCode (lengthList len) l = firstClosed len l) ∧
    (KraftValid len → ∀ l, 1 ≤ l → l ≤ 255 → firstCode (lengthList len) l + lengthCount len l ≤ 2 ^ l)

/-- Rule R156 (derived there): every code fits its length, so no bit of it is lost in its register. -/
def Obligations.CodesFitTheirLengths : Prop :=
  ∀ len : Vector (BitVec 8) 256, KraftValid len → ∀ v : Fin 256, len[v] ≠ 0 →
    (canonicalTable len).code[v].toNat < 2 ^ len[v].toNat ∧
    (canonicalTable len).code[v].toNat = codeOf (lengthList len) v.val

/-- Rule R157 (derived there): of the codes of two different used symbols neither is a beginning of the other. -/
def Obligations.CodesArePrefixFree : Prop :=
  ∀ len : Vector (BitVec 8) 256, KraftValid len → ∀ u v : Byte, u ≠ v → len[u.toNat] ≠ 0 → len[v.toNat] ≠ 0 →
    ¬ List.IsPrefix (symbolBits (canonicalTable len) u) (symbolBits (canonicalTable len) v)

/-! ## Bit packer and unpacker -/

/-- Rules R160 to R162, R165: `PK.PUT` of a symbol with a code, with room for the bytes it completes, completes and appends
exactly the code's bits; without room for the next byte it raises `CapacityError` (`PAY`) at the length reached so far; a
symbol without a code raises `NO_CODE`. -/
def Obligations.PkPutAppendsTheCode : Prop :=
  ∀ (v : Byte) (s : State),
    let k := (s.pkNb.toNat + s.tbl.len[v.toNat].toNat) / 8
    (s.tbl.len[v.toNat] ≠ 0 →
      (k = 0 ∨ payRoom s k = true) →
      ∃ t, exec (.pkPut v) s = .next t ∧ t.status = .done ∧ t.curch = NOCH ∧
        streamBits t = streamBits s ++ symbolBits s.tbl v ∧
        t.payLen.toNat = s.payLen.toNat + k ∧ t.pkNb.toNat = (s.pkNb.toNat + s.tbl.len[v.toNat].toNat) % 8 ∧
        (∀ a, a < s.payLen.toNat ∨ s.payLen.toNat + k ≤ a → t.pay.read a = s.pay.read a) ∧
        { t with
          pay := s.pay, payLen := s.payLen, pkAcc := s.pkAcc, pkNb := s.pkNb, status := s.status, curch := s.curch } = s) ∧
    (∀ j, s.tbl.len[v.toNat] ≠ 0 → j < k → (j = 0 ∨ payRoom s j = true) → payRoom s (j + 1) = false →
      exec (.pkPut v) s = .next (raise .e ⟨.capPay, s.payLen.toNat + j, s.curch⟩ s)) ∧
    (s.tbl.len[v.toNat] = 0 → exec (.pkPut v) s = .next (raise .e ⟨.noCode, v.toNat, s.curch⟩ s))

/-- Rules R163, R166: `PK.FIN`, with room for a byte if one is pending, completes and pads with zero bits to a whole byte;
without room it raises `CapacityError` (`PAY`). -/
def Obligations.PkFinPadsTheLastByte : Prop :=
  ∀ s : State,
    (s.pkNb = 0 ∨ payRoom s 1 = true →
      ∃ t, exec .pkFin s = .next t ∧ t.status = .done ∧ t.curch = NOCH ∧
        streamBits t = streamBits s ++ List.replicate ((8 - s.pkNb.toNat) % 8) false ∧
        t.payLen.toNat = s.payLen.toNat + (if s.pkNb = 0 then 0 else 1) ∧ t.pkNb = 0 ∧
        (s.pkNb ≠ 0 → t.pkAcc = 0) ∧ (s.pkNb = 0 → t.pay = s.pay ∧ t.pkAcc = s.pkAcc) ∧
        (∀ a, a ≠ s.payLen.toNat → t.pay.read a = s.pay.read a) ∧
        { t with
          pay := s.pay, payLen := s.payLen, pkAcc := s.pkAcc, pkNb := s.pkNb, status := s.status, curch := s.curch } = s) ∧
    (s.pkNb ≠ 0 → payRoom s 1 = false →
      exec .pkFin s = .next (raise .e ⟨.capPay, s.payLen.toNat, s.curch⟩ s))

/-- Rules R106, R167, R171: `PACK` completes when every residual byte has a code and the payload has room; the payload is
the codes of the residual bytes in order, padded. A payload above the capacity (or the width of `PAY_LEN`) raises
`CapacityError` (`PAY`) at the first byte that does not fit, and the first byte without a code `NO_CODE`. -/
def Obligations.PackEncodesTheResiduals : Prop :=
  ∀ s : State, overCap s.cfg.resCap s.resN.toNat = false →
    (let payload := bytesOfBits ((List.range s.resN.toNat).flatMap fun i => symbolBits s.tbl (s.res.read i))
     (∀ i, i < s.resN.toNat → s.tbl.len[(s.res.read i).toNat] ≠ 0) →
      overCap s.cfg.payCap payload.length = false → payload.length < 2 ^ 64 →
      ∃ t, exec .pack s = .next t ∧ t.status = .done ∧ t.curch = NOCH ∧
        t.payLen.toNat = payload.length ∧ t.pay.readBytes 0 payload.length = payload ∧ t.pkAcc = 0 ∧ t.pkNb = 0 ∧
        payload.length =
          (((List.range s.resN.toNat).map fun i => s.tbl.len[(s.res.read i).toNat].toNat).sum + 7) / 8 ∧
        (∀ a, payload.length ≤ a → t.pay.read a = s.pay.read a) ∧
        { t with
          pay := s.pay, payLen := s.payLen, pkAcc := s.pkAcc, pkNb := s.pkNb, status := s.status, curch := s.curch } = s) ∧
    ((∀ i, i < s.resN.toNat → s.tbl.len[(s.res.read i).toNat] ≠ 0) →
      payLimit s.cfg.payCap <
        (bytesOfBits ((List.range s.resN.toNat).flatMap fun i => symbolBits s.tbl (s.res.read i))).length →
      exec .pack s = .next (raise .e ⟨.capPay, payLimit s.cfg.payCap, s.curch⟩ s)) ∧
    (∀ i, i < s.resN.toNat → s.tbl.len[(s.res.read i).toNat] = 0 →
      (∀ j, j < i → s.tbl.len[(s.res.read j).toNat] ≠ 0) →
      (let before := ((List.range i).map fun j => s.tbl.len[(s.res.read j).toNat].toNat).sum / 8
       overCap s.cfg.payCap before = false ∧ before < 2 ^ 64) →
      exec .pack s = .next (raise .e ⟨.noCode, (s.res.read i).toNat, s.curch⟩ s))

/-- Rules R168, R170: `UP.BIT` reads the next bit of the payload into `RESULT` and moves the cursor by one bit; at the end
of the payload it raises `STREAM_EXHAUSTED` with position 0. -/
def Obligations.UpBitReadsTheNextBit : Prop :=
  ∀ s : State, overCap s.cfg.payCap s.payLen.toNat = false →
    (∀ b rest, unreadBits s = b :: rest →
      ∃ t, exec .upBit s = .next t ∧ t.status = .done ∧ t.curch = NOCH ∧ t.result = (if b then 1 else 0) ∧
        cursor t = cursor s + 1 ∧ unreadBits t = rest ∧
        { t with result := s.result, upPos := s.upPos, upBit := s.upBit, status := s.status, curch := s.curch } = s) ∧
    (unreadBits s = [] → exec .upBit s = .next (raise .e ⟨.streamExhausted, 0, s.curch⟩ s))

/-! ## Decode trie -/

/-- Rules R176 to R179: `TRIE` completes in every state and changes only the `TRIE` bank, which becomes the trie of the
table; it has a root, the empty table gives the root alone, and the table of rule R179's worked example the five nodes given
there, numbered in the order of creation. -/
def Obligations.TrieCommandCompletes : Prop :=
  (∀ s : State, exec .trie s = .next { s with trie := trieOf s.tbl, status := .done, curch := NOCH } ∧
    1 ≤ (trieOf s.tbl).length) ∧
  (∀ tbl : Table, (∀ v : Fin 256, tbl.len[v] = 0) → trieOf tbl = [{ c0 := 0xFFFF, c1 := 0xFFFF, sym := 0x100 }]) ∧
  (∀ tbl : Table, (∀ v : Fin 256, tbl.len[v].toNat = if v = 10 then 1 else if v < 2 then 2 else 0) →
    (tbl.code[0] = 2 ∧ tbl.code[1] = 3 ∧ tbl.code[10] = 0) →
    trieOf tbl =
      [⟨4, 1, 0x100⟩, ⟨2, 3, 0x100⟩, ⟨0xFFFF, 0xFFFF, 0⟩, ⟨0xFFFF, 0xFFFF, 1⟩, ⟨0xFFFF, 0xFFFF, 10⟩])

/-- Rules R184 (derived there), R177: in the trie of a Kraft-valid table the code of every used symbol leads from the root to a node marked
with that symbol, every marked node is reached so, and there are as many marked nodes as used symbols; in a complete table every unmarked node
has both children, in an incomplete one some unmarked node lacks one. -/
def Obligations.TrieHasOneLeafPerUsedSymbol : Prop :=
  ∀ len : Vector (BitVec 8) 256, KraftValid len →
    let t := trieOf (canonicalTable len)
    (∀ v : Byte, len[v.toNat] ≠ 0 →
      ∃ n, walkTo t 0 (symbolBits (canonicalTable len) v) = some n ∧ (trieNode t n).sym.toNat = v.toNat) ∧
    (∀ n, n < t.length → (trieNode t n).sym ≠ NONE →
      ∃ v : Byte, len[v.toNat] ≠ 0 ∧ walkTo t 0 (symbolBits (canonicalTable len) v) = some n) ∧
    ((t.countP fun n => n.sym ≠ NONE) = (List.finRange 256).countP fun v => len[v] ≠ 0) ∧
    (kraftSum (lengthList len) = 2 ^ 255 → ∀ n, n < t.length → (trieNode t n).sym = NONE →
      (trieNode t n).c0 ≠ ABSENT ∧ (trieNode t n).c1 ≠ ABSENT) ∧
    (kraftSum (lengthList len) ≠ 2 ^ 255 → ∃ n, n < t.length ∧ (trieNode t n).sym = NONE ∧
      ((trieNode t n).c0 = ABSENT ∨ (trieNode t n).c1 = ABSENT))

/-- Rules R39, R182 (derived there): the invariants of the `TRIE` bank hold of the trie of every Kraft-valid table. -/
def Obligations.TrieOfValidTableIsWellShaped : Prop :=
  ∀ len : Vector (BitVec 8) 256, KraftValid len → TrieShape (trieOf (canonicalTable len))

/-- Rules R180, R181: `TR.SYM` follows the unread bits through the trie: it completes with the symbol in `RESULT` and the
cursor behind the bits used, or raises what stopped it, with position 0. -/
def Obligations.TrSymDecodesOneSymbol : Prop :=
  ∀ s : State, overCap s.cfg.payCap s.payLen.toNat = false →
    (∀ v rest, walkSymbol s.trie 0 (unreadBits s) = .ok (v, rest) →
      ∃ t, exec .trSym s = .next t ∧ t.status = .done ∧ t.curch = NOCH ∧ t.result = v.setWidth 32 ∧
        cursor t = cursor s + ((unreadBits s).length - rest.length) ∧
        { t with result := s.result, upPos := s.upPos, upBit := s.upBit, status := s.status, curch := s.curch } = s) ∧
    (∀ c, walkSymbol s.trie 0 (unreadBits s) = .error c → exec .trSym s = .next (raise .e ⟨c, 0, s.curch⟩ s))

/-- Rule R183: `DEC` decodes `RES_N` symbols from the first bit of the payload: it completes with the symbols in `RESMEM`
and the cursor behind the bits used, or raises what stopped it at the index of that symbol. -/
def Obligations.DecDecodesTheChannel : Prop :=
  ∀ s : State, overCap s.cfg.resCap s.resN.toNat = false → overCap s.cfg.payCap s.payLen.toNat = false →
    (∀ vs rest, walkSymbols s.trie s.resN.toNat 0 (payloadBits s) = .ok (vs, rest) →
      ∃ t, exec .dec s = .next t ∧ t.status = .done ∧ t.curch = NOCH ∧ vs.length = s.resN.toNat ∧
        t.res.readBytes 0 s.resN.toNat = vs ∧ (∀ a, s.resN.toNat ≤ a → t.res.read a = s.res.read a) ∧
        cursor t + rest.length = 8 * s.payLen.toNat ∧
        { t with res := s.res, upPos := s.upPos, upBit := s.upBit, status := s.status, curch := s.curch } = s) ∧
    (∀ c i, walkSymbols s.trie s.resN.toNat 0 (payloadBits s) = .error (c, i) →
      exec .dec s = .next (raise .e ⟨c, i, s.curch⟩ s))

/-- Rule R185 (derived there): decoding inverts packing: what `PACK` encoded with a canonical table, `DEC` with the trie of that table
decodes to the same residuals, without an error. -/
def Obligations.DecInvertsPack : Prop :=
  ∀ s t r : State, KraftValid s.tbl.len → s.tbl = canonicalTable s.tbl.len → exec .pack s = .next t → t.status = .done →
    r.cfg = s.cfg → r.resN = s.resN → r.trie = trieOf s.tbl → r.payLen = t.payLen →
    (∀ a, a < t.payLen.toNat → r.pay.read a = t.pay.read a) →
    ∃ u, exec .dec r = .next u ∧ u.status = .done ∧ ∀ i, i < s.resN.toNat → u.res.read i = s.res.read i

/-! ## Container -/

/-- Rule R62: the field codecs. -/
def Obligations.LittleEndianCodecs : Prop :=
  (∀ v : BitVec 16, (le16 v).map BitVec.toNat = [v.toNat % 256, v.toNat / 256] ∧ uLE (le16 v) = v.toNat) ∧
  (∀ v : BitVec 32, (le32 v).map BitVec.toNat =
      [v.toNat % 256, v.toNat / 256 % 256, v.toNat / 65536 % 256, v.toNat / 16777216] ∧ uLE (le32 v) = v.toNat) ∧
  (∀ b0 b1 : Byte, uLE [b0, b1] = b0.toNat + 256 * b1.toNat) ∧
  (∀ b0 b1 b2 b3 : Byte,
    uLE [b0, b1, b2, b3] = b0.toNat + 256 * b1.toNat + 65536 * b2.toNat + 16777216 * b3.toNat) ∧
  le32 2 = [0x02, 0x00, 0x00, 0x00] ∧ le16 255 = [0xFF, 0x00] ∧ uLE [0x4C, 0x01, 0x00, 0x00] = 332

/-- Rule R71: `ContWrite` stores the bytes at `CPOS` and moves it, or raises `CapacityError` (`CONT`) at the unmoved `CPOS`.
Rule R70, by its pseudocode (log 17): `ContRead` reads the whole field and moves `CPOS`, or raises at the unmoved `CPOS`. -/
def Obligations.ContainerCursorMovesWholeFields : Prop :=
  (∀ (n : Nat) (c : Cause) (s : State),
    (s.contLen.toNat < s.cpos.toNat + n → contRead n c s = .error ⟨c, s.cpos.toNat, s.curch⟩) ∧
    (s.cpos.toNat + n ≤ s.contLen.toNat → ∃ bs t, contRead n c s = .ok (bs, t) ∧ bs.length = n ∧
      (∀ i, i < n → bs.getD i 0 = s.cont.read (s.cpos.toNat + i)) ∧ t.cpos.toNat = s.cpos.toNat + n ∧
      { t with cpos := s.cpos } = s)) ∧
  (∀ (bs : List Byte) (s : State),
    (overCap s.cfg.contCap (s.cpos.toNat + bs.length) = true ∨ 2 ^ 64 - 1 < s.cpos.toNat + bs.length →
      contWrite bs s = .error ⟨.capCont, s.cpos.toNat, s.curch⟩) ∧
    (overCap s.cfg.contCap (s.cpos.toNat + bs.length) = false → s.cpos.toNat + bs.length ≤ 2 ^ 64 - 1 →
      ∃ t, contWrite bs s = .ok t ∧ (∀ i, i < bs.length → t.cont.read (s.cpos.toNat + i) = bs.getD i 0) ∧
        (∀ a, a < s.cpos.toNat ∨ s.cpos.toNat + bs.length ≤ a → t.cont.read a = s.cont.read a) ∧
        t.cpos.toNat = s.cpos.toNat + bs.length ∧ { t with cont := s.cont, cpos := s.cpos } = s))

/-- Rules R193, R194: `HDR.WR` on a valid descriptor with room for 14 bytes completes and writes the header; its errors. -/
def Obligations.HdrWrWritesTheHeader : Prop :=
  ∀ s : State,
    (imageFault s = none → overCap s.cfg.contCap 14 = false →
      ∃ t, exec .hdrWr s = .next t ∧ t.status = .done ∧ t.curch = NOCH ∧ t.contLen = 14 ∧ t.cpos = 14 ∧
        t.cont.readBytes 0 14 = imageHeader s ∧ (∀ a, 14 ≤ a → t.cont.read a = s.cont.read a) ∧
        { t with cont := s.cont, contLen := s.contLen, cpos := s.cpos, status := s.status, curch := s.curch } = s) ∧
    (∀ k p, imageFault s = some (k, p) → exec .hdrWr s = .next (raise .cw ⟨k, p, s.curch⟩ s)) ∧
    (∀ cap, imageFault s = none → s.cfg.contCap = some cap → cap < 14 →
      exec .hdrWr s = .next (raise .cw
        ⟨.capCont, if cap < 3 then 0 else if cap < 7 then 3 else if cap < 11 then 7 else if cap < 13 then 11 else 13,
          s.curch⟩ s))

/-- Rules R195, R196: `CHN.WR` with a payload below `2^32` bytes and room for the record completes and appends it at the
cursor, where the container then ends; without room it raises `CapacityError` (`CONT`) at the first field that does not fit; a larger
payload is refused. -/
def Obligations.ChnWrAppendsTheRecord : Prop :=
  ∀ s : State, overCap s.cfg.payCap s.payLen.toNat = false →
    (s.payLen.toNat < 2 ^ 32 → overCap s.cfg.contCap (s.cpos.toNat + (260 + s.payLen.toNat)) = false →
      s.cpos.toNat + (260 + s.payLen.toNat) < 2 ^ 64 →
      ∃ t, exec .chnWr s = .next t ∧ t.status = .done ∧ t.curch = NOCH ∧
        t.cpos.toNat = s.cpos.toNat + (260 + s.payLen.toNat) ∧ t.contLen = t.cpos ∧
        t.cont.readBytes s.cpos.toNat (260 + s.payLen.toNat) =
          s.tbl.len.toList ++ le32 (s.payLen.setWidth 32) ++ s.pay.readBytes 0 s.payLen.toNat ∧
        (∀ a, a < s.cpos.toNat ∨ s.cpos.toNat + (260 + s.payLen.toNat) ≤ a → t.cont.read a = s.cont.read a) ∧
        { t with cont := s.cont, contLen := s.contLen, cpos := s.cpos, status := s.status, curch := s.curch } = s) ∧
    (∀ cap, s.payLen.toNat < 2 ^ 32 → s.cfg.contCap = some cap → cap < 2 ^ 64 →
      cap < s.cpos.toNat + (260 + s.payLen.toNat) →
      exec .chnWr s = .next (raise .cw
        ⟨.capCont,
          if cap < s.cpos.toNat + 256 then s.cpos.toNat
          else if cap < s.cpos.toNat + 260 then s.cpos.toNat + 256 else s.cpos.toNat + 260,
          s.curch⟩ s)) ∧
    (2 ^ 32 ≤ s.payLen.toNat → exec .chnWr s = .next (raise .cw ⟨.payloadTooLarge, s.payLen.toNat, s.curch⟩ s))

/-- Rules R197, R198: `HDR.RD` on a valid header completes with the descriptor set from it and `CPOS = 14`; otherwise it
raises the first check that fails, in the order of rule R197. -/
def Obligations.HdrRdReadsTheHeader : Prop :=
  ∀ s : State,
    (headerFault s = none →
      exec .hdrRd s = .next { s with desc := headerDesc s, cpos := 14, status := .done, curch := NOCH }) ∧
    (∀ c p, headerFault s = some (c, p) → exec .hdrRd s = .next (raise .iw ⟨c, p, s.curch⟩ s))

/-- Rules R199, R200: `CHN.RD` on a whole record at the cursor completes with `LEN`, `PAY` and `CPOS` set from it; otherwise
it raises the field that is cut, or `CapacityError` (`PAY`). -/
def Obligations.ChnRdReadsTheRecord : Prop :=
  ∀ s : State, overCap s.cfg.contCap s.contLen.toNat = false →
    let pc := uLE (s.cont.readBytes (s.cpos.toNat + 256) 4)
    (s.contLen.toNat < s.cpos.toNat + 256 → exec .chnRd s = .next (raise .e ⟨.lengths, s.cpos.toNat, s.curch⟩ s)) ∧
    (s.cpos.toNat + 256 ≤ s.contLen.toNat → s.contLen.toNat < s.cpos.toNat + 260 →
      exec .chnRd s = .next (raise .e ⟨.payloadCount, s.cpos.toNat + 256, s.curch⟩ s)) ∧
    (s.cpos.toNat + 260 ≤ s.contLen.toNat → s.contLen.toNat < s.cpos.toNat + 260 + pc →
      exec .chnRd s = .next (raise .e ⟨.payload, s.cpos.toNat + 260, s.curch⟩ s)) ∧
    (s.cpos.toNat + 260 + pc ≤ s.contLen.toNat → overCap s.cfg.payCap pc = true →
      exec .chnRd s = .next (raise .e ⟨.capPay, pc, s.curch⟩ s)) ∧
    (s.cpos.toNat + 260 + pc ≤ s.contLen.toNat → overCap s.cfg.payCap pc = false →
      ∃ t, exec .chnRd s = .next t ∧ t.status = .done ∧ t.curch = NOCH ∧
        (∀ v : Fin 256, t.len[v] = s.cont.read (s.cpos.toNat + v.val)) ∧ t.payLen.toNat = pc ∧
        (∀ i, i < pc → t.pay.read i = s.cont.read (s.cpos.toNat + 260 + i)) ∧
        (∀ a, pc ≤ a → t.pay.read a = s.pay.read a) ∧ t.cpos.toNat = s.cpos.toNat + 260 + pc ∧
        { t with
          len := s.len, pay := s.pay, payLen := s.payLen, cpos := s.cpos, status := s.status, curch := s.curch } = s)

/-- Rules R202, R203, R103, R242: `COMPRESS` of an image on which no check fails completes and writes the image's container;
the image is unchanged and the ephemeral banks are cleared. Otherwise it raises the first check that fails: of the
descriptor, of the header (both with `curch` as it was, NOCH), or of a channel, in ascending order and with `ERR_CH` that
channel: `RES`, `PAY`, `PAYLOAD_TOO_LARGE`, `CONT` at the field that does not fit. -/
def Obligations.CompressWritesTheContainer : Prop :=
  ∀ s : State,
    (compressFault s = none →
      ∃ t, exec .compress s = .next t ∧ t.status = .done ∧ t.curch = NOCH ∧
        t.contLen.toNat = (imageContainer s).length ∧ t.cpos = t.contLen ∧
        t.cont.readBytes 0 (imageContainer s).length = imageContainer s ∧
        (imageContainer s).length =
          14 + ((List.range s.desc.channels.toNat).map fun c => 260 + (channelPayload s.desc.dims c s.img).length).sum ∧
        (∀ a, (imageContainer s).length ≤ a → t.cont.read a = s.cont.read a) ∧ EphemeralClear t ∧
        { withEphemeralOf t s with
          cont := s.cont, contLen := s.contLen, cpos := s.cpos, status := s.status, curch := s.curch } = s) ∧
    (∀ e, compressFault s = some e → exec .compress s = .next (raise .cw e s))

/-- Rules R208, R209, R242: `DECOMPRESS` of a container with a valid header and, per channel, a record that passes every
check and whose payload decodes to `W * H` symbols, completes with the descriptor, the samples and `CPOS` from it; the
container is unchanged and the ephemeral banks are cleared. A header that fails a check is refused with that check, and
otherwise the first check that fails in the records, in ascending channel order, is raised with `ERR_CH` that channel. -/
def Obligations.DecompressReadsTheContainer : Prop :=
  ∀ s : State,
    (∀ rss off, headerFault s = none → containerRecords s = .ok (rss, off) →
      ∃ t, exec .decompress s = .next t ∧ t.status = .done ∧ t.curch = NOCH ∧ t.desc = headerDesc s ∧
        t.cpos.toNat = off ∧
        (∀ c y x, c < headerChannels s → y < headerHeight s → x < headerWidth s →
          (t.img.read ((y * headerWidth s + x) * headerChannels s + c)).toNat =
            ((List.range (x + 1)).map fun k =>
              ((rss.getD c []).getD (y * headerWidth s + k) 0).toNat).sum % 256) ∧
        (∀ a, headerWidth s * headerHeight s * headerChannels s ≤ a → t.img.read a = s.img.read a) ∧ EphemeralClear t ∧
        { withEphemeralOf t s with
          desc := s.desc, img := s.img, cpos := s.cpos, status := s.status, curch := s.curch } = s) ∧
    (∀ c p, headerFault s = some (c, p) → exec .decompress s = .next (raise .iw ⟨c, p, s.curch⟩ s)) ∧
    (∀ e, headerFault s = none → containerRecords s = .error e → exec .decompress s = .next (raise .iw e s))

/-- Rule R210 (derived there): the round trip. Whenever `COMPRESS` ends in DONE, `DECOMPRESS` of the container it wrote, on any block with
the same parameters that holds those bytes, ends in DONE with the same descriptor and the same samples, having consumed the
whole container. -/
def Obligations.DecompressInvertsCompress : Prop :=
  ∀ s t r : State, exec .compress s = .next t → t.status = .done → r.cfg = s.cfg → r.contLen = t.contLen →
    (∀ a, a < t.contLen.toNat → r.cont.read a = t.cont.read a) →
    ∃ u, exec .decompress r = .next u ∧ u.status = .done ∧ u.desc = s.desc ∧ u.cpos = t.contLen ∧
      ∀ a, a < s.desc.width.toNat * s.desc.height.toNat * s.desc.channels.toNat → u.img.read a = s.img.read a

/-- Rule R213 (derived there): a container with a corrupted magic byte is refused; one made by `COMPRESS` that has lost its
last byte is refused as `PAYLOAD` of the last channel at the offset where its payload starts; and one whose last payload and
its count are both shorter by one runs out of bits in the last channel, at one of its symbols. -/
def Obligations.CorruptContainersAreRejected : Prop :=
  (∀ r : State, overCap r.cfg.contCap r.contLen.toNat = false → 3 ≤ r.contLen.toNat →
    (r.cont.read 0 ≠ r.cfg.magic0 ∨ r.cont.read 1 ≠ r.cfg.magic1 ∨ r.cont.read 2 ≠ r.cfg.magic2) →
    exec .decompress r = .next (raise .iw ⟨.badMagic, 0, r.curch⟩ r)) ∧
  (∀ s t r : State, exec .compress s = .next t → t.status = .done → r.cfg = s.cfg →
    r.contLen.toNat + 1 = t.contLen.toNat →
    let last := s.desc.channels.toNat - 1
    let off := t.contLen.toNat - (channelPayload s.desc.dims last s.img).length
    ((∀ a, a < r.contLen.toNat → r.cont.read a = t.cont.read a) →
      exec .decompress r = .next (raise .iw ⟨.payload, off, BitVec.ofNat 2 last⟩ r)) ∧
    ((∀ a, a < r.contLen.toNat → (a + 4 < off ∨ off ≤ a) → r.cont.read a = t.cont.read a) →
      uLE (r.cont.readBytes (off - 4) 4) + 1 = (channelPayload s.desc.dims last s.img).length →
      ∃ i, i < s.desc.width.toNat * s.desc.height.toNat ∧
        exec .decompress r = .next (raise .iw ⟨.streamExhausted, i, BitVec.ofNat 2 last⟩ r)))

/-- Rule R215 (derived there), compress side: on an input on which `COMPRESS` succeeds, the unit commands leave the same container and
cursor. -/
def Obligations.UnitCommandsCompressAlike : Prop :=
  ∀ s t : State, exec .compress s = .next t → t.status = .done →
    ∃ u, runCommands
        (.hdrWr :: (List.range s.desc.channels.toNat).flatMap fun c => compressUnits (BitVec.ofNat 8 c)) s = .next u ∧
      u.status = .done ∧ u.contLen = t.contLen ∧ u.cpos = t.cpos ∧
      ∀ a, a < t.contLen.toNat → u.cont.read a = t.cont.read a

/-- Rule R215 (derived there), decompress side: on an input on which `DECOMPRESS` succeeds, the unit commands, with the host's write of
`RES_N`, leave the same descriptor, samples and cursor. -/
def Obligations.UnitCommandsDecompressAlike : Prop :=
  ∀ s t : State, exec .decompress s = .next t → t.status = .done →
    ∃ v u, exec .hdrRd s = .next v ∧
      decompressChannels (t.desc.width.toNat * t.desc.height.toNat) (List.range t.desc.channels.toNat) v = .next u ∧
      u.status = .done ∧ u.desc = t.desc ∧ u.cpos = t.cpos ∧
      ∀ a, a < t.desc.width.toNat * t.desc.height.toNat * t.desc.channels.toNat → u.img.read a = t.img.read a

/-! ## The invariant -/

/-- Every step keeps the invariant: the memories in canonical form, rule R45 (with log 13), rules R35 (a), (f), R37, R39 and
R41, and BUSY exactly while a command is in execution. Rule R45 (b) whole, "every ephemeral bank has its reset value" in
ERROR, is kept by every step but a host write to one of the four ephemeral banks that rule R65 lets the host write in ERROR. -/
def Obligations.StepKeepsTheBlockInvariant : Prop :=
  ∀ s t : State, Machine.Inv s → step s = .next t →
    Machine.Inv t ∧
    ((s.status = .error → EphemeralClear s ∧ ∀ e, s.port.head? = some e → ephemeralWrite e = false) →
      t.status = .error → EphemeralClear t)

/-- The state after reset has the invariant, for any parameters. -/
def Obligations.ResetHasTheBlockInvariant : Prop := ∀ p : Params, Machine.Inv (State.resetWith p)
end

