-- ==== Sys2Proof/Laws/Memory.lean ====
section
/-! SUPPORT. The byte memories: read after write, what a write leaves alone, and that every operation keeps the
canonical form. -/

namespace Sys2Proof.Machine

theorem lookup_cons_ite (k x : Nat) (v : Byte) (cs : List Host.Cell) :
    List.lookup x ((k, v) :: cs) = if x = k then some v else cs.lookup x := by
  by_cases h : x = k
  · subst h; simp
  · simp [List.lookup_cons, beq_eq_false_iff_ne.2 h, h]

theorem lookup_insertCell_same (cs : List Host.Cell) (a : Nat) (b : Byte) : (insertCell cs a b).lookup a = some b := by
  induction cs with
  | nil => simp [insertCell]
  | cons c cs ih =>
    obtain ⟨k, v⟩ := c
    unfold insertCell
    split
    · simp
    · split
      · simp
      · next h1 h2 => simp [lookup_cons_ite, ih, h2]

theorem lookup_insertCell_other (cs : List Host.Cell) {a x : Nat} (b : Byte) (h : x ≠ a) :
    (insertCell cs a b).lookup x = cs.lookup x := by
  induction cs with
  | nil => simp [insertCell, lookup_cons_ite, h]
  | cons c cs ih =>
    obtain ⟨k, v⟩ := c
    unfold insertCell
    split
    · simp [lookup_cons_ite, h]
    · split
      · next h1 h2 => subst h2; simp [lookup_cons_ite, h]
      · simp [lookup_cons_ite, ih]

@[simp] theorem Memory.read_write_same (m : Memory) (a : Nat) (b : Byte) : (m.write a b).read a = b := by
  simp [Memory.read, Memory.write, lookup_insertCell_same]

theorem Memory.read_write_other (m : Memory) {a x : Nat} (b : Byte) (h : x ≠ a) : (m.write a b).read x = m.read x := by
  simp [Memory.read, Memory.write, lookup_insertCell_other _ _ h]

/-- Read after write, both cases at once. -/
theorem Memory.read_write (m : Memory) (a x : Nat) (b : Byte) :
    (m.write a b).read x = if x = a then b else m.read x := by
  split
  · next h => subst h; simp
  · next h => exact m.read_write_other b h

@[simp] theorem Memory.write_space (m : Memory) (a : Nat) (b : Byte) : (m.write a b).space = m.space := rfl
@[simp] theorem Memory.write_epoch (m : Memory) (a : Nat) (b : Byte) : (m.write a b).epoch = m.epoch := rfl

theorem Memory.writeBytes_space (m : Memory) (a : Nat) (bs : List Byte) : (m.writeBytes a bs).space = m.space := by
  induction bs generalizing m a with
  | nil => rfl
  | cons b bs ih => simp [Memory.writeBytes, ih]

theorem Memory.writeAll_space (m : Memory) (ps : List (Nat × Byte)) : (m.writeAll ps).space = m.space := by
  induction ps generalizing m with
  | nil => rfl
  | cons p ps ih => obtain ⟨a, b⟩ := p; simp [Memory.writeAll, ih]

/-- What `writeBytes` leaves: the written bytes in their places, every other cell as it was. -/
theorem Memory.read_writeBytes (m : Memory) (a x : Nat) (bs : List Byte) :
    (m.writeBytes a bs).read x = if a ≤ x ∧ x < a + bs.length then bs.getD (x - a) 0 else m.read x := by
  induction bs generalizing m a with
  | nil => simp [Memory.writeBytes]
  | cons b bs ih =>
    simp only [Memory.writeBytes, ih, Memory.read_write, List.length_cons]
    by_cases hx : x = a
    · subst hx; simp
    · by_cases hlt : a + 1 ≤ x ∧ x < a + 1 + bs.length
      · have h2 : a ≤ x ∧ x < a + (bs.length + 1) := by omega
        have h3 : x - a = (x - (a + 1)) + 1 := by omega
        simp [hlt, h2, h3]
      · have h2 : ¬ (a ≤ x ∧ x < a + (bs.length + 1)) := by omega
        rw [if_neg hlt, if_neg h2, if_neg hx]

theorem Memory.read_writeBytes_outside (m : Memory) {a x : Nat} (bs : List Byte) (h : x < a ∨ a + bs.length ≤ x) :
    (m.writeBytes a bs).read x = m.read x := by
  rw [Memory.read_writeBytes, if_neg (by omega)]

/-- A cell that no pair names keeps its byte. -/
theorem Memory.read_writeAll_outside (m : Memory) (ps : List (Nat × Byte)) {x : Nat} (h : ∀ p ∈ ps, p.1 ≠ x) :
    (m.writeAll ps).read x = m.read x := by
  induction ps generalizing m with
  | nil => rfl
  | cons p ps ih =>
    obtain ⟨a, b⟩ := p
    simp only [Memory.writeAll]
    rw [ih _ fun q hq => h q (List.mem_cons_of_mem _ hq)]
    exact m.read_write_other b fun e => h (a, b) List.mem_cons_self e.symm

/-- When the pairs name different cells, each named cell holds its byte afterwards. -/
theorem Memory.read_writeAll_mem (m : Memory) (ps : List (Nat × Byte)) (hd : (ps.map Prod.fst).Nodup) {a : Nat} {b : Byte}
    (h : (a, b) ∈ ps) : (m.writeAll ps).read a = b := by
  induction ps generalizing m with
  | nil => cases h
  | cons p ps ih =>
    obtain ⟨a', b'⟩ := p
    simp only [List.map_cons, List.nodup_cons, List.mem_map, not_exists, not_and] at hd
    simp only [Memory.writeAll]
    rcases List.mem_cons.1 h with h | h
    · obtain ⟨rfl, rfl⟩ := Prod.mk.inj h
      rw [Memory.read_writeAll_outside _ _ fun q hq e => hd.1 q hq e]
      simp
    · exact ih _ hd.2 h

@[simp] theorem Memory.readBytes_length (m : Memory) (a n : Nat) : (m.readBytes a n).length = n := by
  simp [Memory.readBytes]

theorem Memory.readBytes_getElem (m : Memory) (a n i : Nat) (h : i < (m.readBytes a n).length) :
    (m.readBytes a n)[i] = m.read (a + i) := by
  simp [Memory.readBytes]

/-- Reading back exactly what was written. -/
theorem Memory.readBytes_writeBytes (m : Memory) (a : Nat) (bs : List Byte) :
    (m.writeBytes a bs).readBytes a bs.length = bs := by
  apply List.ext_getElem
  · simp
  · intro i h1 h2
    rw [Memory.readBytes_getElem, Memory.read_writeBytes, if_pos (by omega)]
    simp [h2]

/-- Memories that agree on a range read the same bytes there. -/
theorem Memory.readBytes_congr {m m' : Memory} {a n : Nat} (h : ∀ x, a ≤ x → x < a + n → m.read x = m'.read x) :
    m.readBytes a n = m'.readBytes a n := by
  simp only [Memory.readBytes]
  apply List.map_congr_left
  intro i hi
  have := List.mem_range.1 hi
  exact h _ (by omega) (by omega)

/-! ## The canonical form -/

theorem mem_insertCell_key {cs : List Host.Cell} {a : Nat} {b : Byte} {k : Nat}
    (h : k ∈ (insertCell cs a b).map Prod.fst) : k = a ∨ k ∈ cs.map Prod.fst := by
  induction cs with
  | nil => simpa [insertCell] using h
  | cons c cs ih =>
    obtain ⟨k', v⟩ := c
    unfold insertCell at h
    split at h
    · simpa using h
    · split at h
      · next h1 h2 => subst h2; simp at h ⊢; tauto
      · simp only [List.map_cons, List.mem_cons] at h ⊢
        rcases h with h | h
        · exact .inr (.inl h)
        · rcases ih h with h | h
          · exact .inl h
          · exact .inr (.inr h)

theorem insertCell_sorted {cs : List Host.Cell} (a : Nat) (b : Byte) (h : (cs.map Prod.fst).Pairwise (· < ·)) :
    ((insertCell cs a b).map Prod.fst).Pairwise (· < ·) := by
  induction cs with
  | nil => simp [insertCell]
  | cons c cs ih =>
    obtain ⟨k, v⟩ := c
    simp only [List.map_cons, List.pairwise_cons] at h
    unfold insertCell
    split
    · next hak =>
      simp only [List.map_cons, List.pairwise_cons, List.mem_cons]
      refine ⟨?_, h⟩
      rintro x (rfl | hx)
      · exact hak
      · exact hak.trans (h.1 x hx)
    · split
      · next h1 h2 => subst h2; simpa using h
      · next h1 h2 =>
        simp only [List.map_cons, List.pairwise_cons]
        refine ⟨fun x hx => ?_, ih h.2⟩
        rcases mem_insertCell_key hx with rfl | hx
        · omega
        · exact h.1 x hx

theorem Memory.wf_write {m : Memory} (a : Nat) (b : Byte) (h : m.wf) : (m.write a b).wf := insertCell_sorted a b h

theorem Memory.wf_writeBytes {m : Memory} (a : Nat) (bs : List Byte) (h : m.wf) : (m.writeBytes a bs).wf := by
  induction bs generalizing m a with
  | nil => exact h
  | cons b bs ih => exact ih _ (Memory.wf_write a b h)

theorem Memory.wf_writeAll {m : Memory} (ps : List (Nat × Byte)) (h : m.wf) : (m.writeAll ps).wf := by
  induction ps generalizing m with
  | nil => exact h
  | cons p ps ih => obtain ⟨a, b⟩ := p; exact ih (Memory.wf_write a b h)

@[simp] theorem Memory.wf_unspecified (space epoch : Nat) : (Memory.unspecified space epoch).wf := by
  simp [Memory.wf, Memory.unspecified]

@[simp] theorem Memory.wf_scramble (m : Memory) : m.scramble.wf := Memory.wf_unspecified _ _

@[simp] theorem Memory.scramble_space (m : Memory) : m.scramble.space = m.space := rfl

end Sys2Proof.Machine
end

