-- ==== Sys2Proof/Laws/State.lean ====
section
/-! SUPPORT. What each whole-state update leaves in each field: one lemma per field per update, true by unfolding. -/

namespace Sys2Proof.Machine

/-! ## `complete` -/

@[simp] theorem complete_cfg (s : State) : (complete s).cfg = s.cfg := rfl
@[simp] theorem complete_status (s : State) : (complete s).status = .done := rfl
@[simp] theorem complete_errKind (s : State) : (complete s).errKind = s.errKind := rfl
@[simp] theorem complete_errCause (s : State) : (complete s).errCause = s.errCause := rfl
@[simp] theorem complete_errCh (s : State) : (complete s).errCh = s.errCh := rfl
@[simp] theorem complete_errPos (s : State) : (complete s).errPos = s.errPos := rfl
@[simp] theorem complete_result (s : State) : (complete s).result = s.result := rfl
@[simp] theorem complete_cpos (s : State) : (complete s).cpos = s.cpos := rfl
@[simp] theorem complete_curch (s : State) : (complete s).curch = NOCH := rfl
@[simp] theorem complete_desc (s : State) : (complete s).desc = s.desc := rfl
@[simp] theorem complete_img (s : State) : (complete s).img = s.img := rfl
@[simp] theorem complete_contLen (s : State) : (complete s).contLen = s.contLen := rfl
@[simp] theorem complete_cont (s : State) : (complete s).cont = s.cont := rfl
@[simp] theorem complete_resN (s : State) : (complete s).resN = s.resN := rfl
@[simp] theorem complete_res (s : State) : (complete s).res = s.res := rfl
@[simp] theorem complete_freq (s : State) : (complete s).freq = s.freq := rfl
@[simp] theorem complete_len (s : State) : (complete s).len = s.len := rfl
@[simp] theorem complete_tbl (s : State) : (complete s).tbl = s.tbl := rfl
@[simp] theorem complete_payLen (s : State) : (complete s).payLen = s.payLen := rfl
@[simp] theorem complete_pay (s : State) : (complete s).pay = s.pay := rfl
@[simp] theorem complete_pkAcc (s : State) : (complete s).pkAcc = s.pkAcc := rfl
@[simp] theorem complete_pkNb (s : State) : (complete s).pkNb = s.pkNb := rfl
@[simp] theorem complete_upPos (s : State) : (complete s).upPos = s.upPos := rfl
@[simp] theorem complete_upBit (s : State) : (complete s).upBit = s.upBit := rfl
@[simp] theorem complete_trie (s : State) : (complete s).trie = s.trie := rfl
@[simp] theorem complete_port (s : State) : (complete s).port = s.port := rfl
@[simp] theorem complete_running (s : State) : (complete s).running = s.running := rfl
@[simp] theorem complete_portData (s : State) : (complete s).portData = s.portData := rfl
@[simp] theorem complete_busyReads (s : State) : (complete s).busyReads = s.busyReads := rfl

/-! ## `resetEphemeral` -/

@[simp] theorem resetEphemeral_cfg (s : State) : (resetEphemeral s).cfg = s.cfg := rfl
@[simp] theorem resetEphemeral_status (s : State) : (resetEphemeral s).status = s.status := rfl
@[simp] theorem resetEphemeral_errKind (s : State) : (resetEphemeral s).errKind = s.errKind := rfl
@[simp] theorem resetEphemeral_errCause (s : State) : (resetEphemeral s).errCause = s.errCause := rfl
@[simp] theorem resetEphemeral_errCh (s : State) : (resetEphemeral s).errCh = s.errCh := rfl
@[simp] theorem resetEphemeral_errPos (s : State) : (resetEphemeral s).errPos = s.errPos := rfl
@[simp] theorem resetEphemeral_result (s : State) : (resetEphemeral s).result = s.result := rfl
@[simp] theorem resetEphemeral_cpos (s : State) : (resetEphemeral s).cpos = s.cpos := rfl
@[simp] theorem resetEphemeral_curch (s : State) : (resetEphemeral s).curch = s.curch := rfl
@[simp] theorem resetEphemeral_desc (s : State) : (resetEphemeral s).desc = s.desc := rfl
@[simp] theorem resetEphemeral_img (s : State) : (resetEphemeral s).img = s.img := rfl
@[simp] theorem resetEphemeral_contLen (s : State) : (resetEphemeral s).contLen = s.contLen := rfl
@[simp] theorem resetEphemeral_cont (s : State) : (resetEphemeral s).cont = s.cont := rfl
@[simp] theorem resetEphemeral_resN (s : State) : (resetEphemeral s).resN = 0 := rfl
@[simp] theorem resetEphemeral_res (s : State) : (resetEphemeral s).res = s.res.scramble := rfl
@[simp] theorem resetEphemeral_freq (s : State) : (resetEphemeral s).freq = Vector.replicate 256 0 := rfl
@[simp] theorem resetEphemeral_len (s : State) : (resetEphemeral s).len = Vector.replicate 256 0 := rfl
@[simp] theorem resetEphemeral_tbl (s : State) : (resetEphemeral s).tbl = Table.zero := rfl
@[simp] theorem resetEphemeral_payLen (s : State) : (resetEphemeral s).payLen = 0 := rfl
@[simp] theorem resetEphemeral_pay (s : State) : (resetEphemeral s).pay = s.pay.scramble := rfl
@[simp] theorem resetEphemeral_pkAcc (s : State) : (resetEphemeral s).pkAcc = 0 := rfl
@[simp] theorem resetEphemeral_pkNb (s : State) : (resetEphemeral s).pkNb = 0 := rfl
@[simp] theorem resetEphemeral_upPos (s : State) : (resetEphemeral s).upPos = 0 := rfl
@[simp] theorem resetEphemeral_upBit (s : State) : (resetEphemeral s).upBit = 0 := rfl
@[simp] theorem resetEphemeral_trie (s : State) : (resetEphemeral s).trie = [TrieNode.fresh] := rfl
@[simp] theorem resetEphemeral_port (s : State) : (resetEphemeral s).port = s.port := rfl
@[simp] theorem resetEphemeral_running (s : State) : (resetEphemeral s).running = s.running := rfl
@[simp] theorem resetEphemeral_portData (s : State) : (resetEphemeral s).portData = s.portData := rfl
@[simp] theorem resetEphemeral_busyReads (s : State) : (resetEphemeral s).busyReads = s.busyReads := rfl

/-! ## `clearError` -/

@[simp] theorem clearError_cfg (s : State) : (clearError s).cfg = s.cfg := rfl
@[simp] theorem clearError_status (s : State) : (clearError s).status = .idle := rfl
@[simp] theorem clearError_errKind (s : State) : (clearError s).errKind = 0 := rfl
@[simp] theorem clearError_errCause (s : State) : (clearError s).errCause = 0 := rfl
@[simp] theorem clearError_errCh (s : State) : (clearError s).errCh = 0 := rfl
@[simp] theorem clearError_errPos (s : State) : (clearError s).errPos = 0 := rfl
@[simp] theorem clearError_result (s : State) : (clearError s).result = 0 := rfl
@[simp] theorem clearError_cpos (s : State) : (clearError s).cpos = 0 := rfl
@[simp] theorem clearError_curch (s : State) : (clearError s).curch = NOCH := rfl
@[simp] theorem clearError_desc (s : State) : (clearError s).desc = s.desc := rfl
@[simp] theorem clearError_img (s : State) : (clearError s).img = s.img := rfl
@[simp] theorem clearError_contLen (s : State) : (clearError s).contLen = s.contLen := rfl
@[simp] theorem clearError_cont (s : State) : (clearError s).cont = s.cont := rfl
@[simp] theorem clearError_resN (s : State) : (clearError s).resN = 0 := rfl
@[simp] theorem clearError_res (s : State) : (clearError s).res = s.res.scramble := rfl
@[simp] theorem clearError_freq (s : State) : (clearError s).freq = Vector.replicate 256 0 := rfl
@[simp] theorem clearError_len (s : State) : (clearError s).len = Vector.replicate 256 0 := rfl
@[simp] theorem clearError_tbl (s : State) : (clearError s).tbl = Table.zero := rfl
@[simp] theorem clearError_payLen (s : State) : (clearError s).payLen = 0 := rfl
@[simp] theorem clearError_pay (s : State) : (clearError s).pay = s.pay.scramble := rfl
@[simp] theorem clearError_pkAcc (s : State) : (clearError s).pkAcc = 0 := rfl
@[simp] theorem clearError_pkNb (s : State) : (clearError s).pkNb = 0 := rfl
@[simp] theorem clearError_upPos (s : State) : (clearError s).upPos = 0 := rfl
@[simp] theorem clearError_upBit (s : State) : (clearError s).upBit = 0 := rfl
@[simp] theorem clearError_trie (s : State) : (clearError s).trie = [TrieNode.fresh] := rfl
@[simp] theorem clearError_port (s : State) : (clearError s).port = s.port := rfl
@[simp] theorem clearError_running (s : State) : (clearError s).running = s.running := rfl
@[simp] theorem clearError_portData (s : State) : (clearError s).portData = s.portData := rfl
@[simp] theorem clearError_busyReads (s : State) : (clearError s).busyReads = s.busyReads := rfl

/-! ## `packInit` -/

@[simp] theorem packInit_cfg (s : State) : (packInit s).cfg = s.cfg := rfl
@[simp] theorem packInit_status (s : State) : (packInit s).status = s.status := rfl
@[simp] theorem packInit_errKind (s : State) : (packInit s).errKind = s.errKind := rfl
@[simp] theorem packInit_errCause (s : State) : (packInit s).errCause = s.errCause := rfl
@[simp] theorem packInit_errCh (s : State) : (packInit s).errCh = s.errCh := rfl
@[simp] theorem packInit_errPos (s : State) : (packInit s).errPos = s.errPos := rfl
@[simp] theorem packInit_result (s : State) : (packInit s).result = s.result := rfl
@[simp] theorem packInit_cpos (s : State) : (packInit s).cpos = s.cpos := rfl
@[simp] theorem packInit_curch (s : State) : (packInit s).curch = s.curch := rfl
@[simp] theorem packInit_desc (s : State) : (packInit s).desc = s.desc := rfl
@[simp] theorem packInit_img (s : State) : (packInit s).img = s.img := rfl
@[simp] theorem packInit_contLen (s : State) : (packInit s).contLen = s.contLen := rfl
@[simp] theorem packInit_cont (s : State) : (packInit s).cont = s.cont := rfl
@[simp] theorem packInit_resN (s : State) : (packInit s).resN = s.resN := rfl
@[simp] theorem packInit_res (s : State) : (packInit s).res = s.res := rfl
@[simp] theorem packInit_freq (s : State) : (packInit s).freq = s.freq := rfl
@[simp] theorem packInit_len (s : State) : (packInit s).len = s.len := rfl
@[simp] theorem packInit_tbl (s : State) : (packInit s).tbl = s.tbl := rfl
@[simp] theorem packInit_payLen (s : State) : (packInit s).payLen = 0 := rfl
@[simp] theorem packInit_pay (s : State) : (packInit s).pay = s.pay := rfl
@[simp] theorem packInit_pkAcc (s : State) : (packInit s).pkAcc = 0 := rfl
@[simp] theorem packInit_pkNb (s : State) : (packInit s).pkNb = 0 := rfl
@[simp] theorem packInit_upPos (s : State) : (packInit s).upPos = s.upPos := rfl
@[simp] theorem packInit_upBit (s : State) : (packInit s).upBit = s.upBit := rfl
@[simp] theorem packInit_trie (s : State) : (packInit s).trie = s.trie := rfl
@[simp] theorem packInit_port (s : State) : (packInit s).port = s.port := rfl
@[simp] theorem packInit_running (s : State) : (packInit s).running = s.running := rfl
@[simp] theorem packInit_portData (s : State) : (packInit s).portData = s.portData := rfl
@[simp] theorem packInit_busyReads (s : State) : (packInit s).busyReads = s.busyReads := rfl

/-! ## `unpackInit` -/

@[simp] theorem unpackInit_cfg (s : State) : (unpackInit s).cfg = s.cfg := rfl
@[simp] theorem unpackInit_status (s : State) : (unpackInit s).status = s.status := rfl
@[simp] theorem unpackInit_errKind (s : State) : (unpackInit s).errKind = s.errKind := rfl
@[simp] theorem unpackInit_errCause (s : State) : (unpackInit s).errCause = s.errCause := rfl
@[simp] theorem unpackInit_errCh (s : State) : (unpackInit s).errCh = s.errCh := rfl
@[simp] theorem unpackInit_errPos (s : State) : (unpackInit s).errPos = s.errPos := rfl
@[simp] theorem unpackInit_result (s : State) : (unpackInit s).result = s.result := rfl
@[simp] theorem unpackInit_cpos (s : State) : (unpackInit s).cpos = s.cpos := rfl
@[simp] theorem unpackInit_curch (s : State) : (unpackInit s).curch = s.curch := rfl
@[simp] theorem unpackInit_desc (s : State) : (unpackInit s).desc = s.desc := rfl
@[simp] theorem unpackInit_img (s : State) : (unpackInit s).img = s.img := rfl
@[simp] theorem unpackInit_contLen (s : State) : (unpackInit s).contLen = s.contLen := rfl
@[simp] theorem unpackInit_cont (s : State) : (unpackInit s).cont = s.cont := rfl
@[simp] theorem unpackInit_resN (s : State) : (unpackInit s).resN = s.resN := rfl
@[simp] theorem unpackInit_res (s : State) : (unpackInit s).res = s.res := rfl
@[simp] theorem unpackInit_freq (s : State) : (unpackInit s).freq = s.freq := rfl
@[simp] theorem unpackInit_len (s : State) : (unpackInit s).len = s.len := rfl
@[simp] theorem unpackInit_tbl (s : State) : (unpackInit s).tbl = s.tbl := rfl
@[simp] theorem unpackInit_payLen (s : State) : (unpackInit s).payLen = s.payLen := rfl
@[simp] theorem unpackInit_pay (s : State) : (unpackInit s).pay = s.pay := rfl
@[simp] theorem unpackInit_pkAcc (s : State) : (unpackInit s).pkAcc = s.pkAcc := rfl
@[simp] theorem unpackInit_pkNb (s : State) : (unpackInit s).pkNb = s.pkNb := rfl
@[simp] theorem unpackInit_upPos (s : State) : (unpackInit s).upPos = 0 := rfl
@[simp] theorem unpackInit_upBit (s : State) : (unpackInit s).upBit = 0 := rfl
@[simp] theorem unpackInit_trie (s : State) : (unpackInit s).trie = s.trie := rfl
@[simp] theorem unpackInit_port (s : State) : (unpackInit s).port = s.port := rfl
@[simp] theorem unpackInit_running (s : State) : (unpackInit s).running = s.running := rfl
@[simp] theorem unpackInit_portData (s : State) : (unpackInit s).portData = s.portData := rfl
@[simp] theorem unpackInit_busyReads (s : State) : (unpackInit s).busyReads = s.busyReads := rfl

/-! ## `closeContainer` -/

@[simp] theorem closeContainer_cfg (s : State) : (closeContainer s).cfg = s.cfg := rfl
@[simp] theorem closeContainer_status (s : State) : (closeContainer s).status = s.status := rfl
@[simp] theorem closeContainer_errKind (s : State) : (closeContainer s).errKind = s.errKind := rfl
@[simp] theorem closeContainer_errCause (s : State) : (closeContainer s).errCause = s.errCause := rfl
@[simp] theorem closeContainer_errCh (s : State) : (closeContainer s).errCh = s.errCh := rfl
@[simp] theorem closeContainer_errPos (s : State) : (closeContainer s).errPos = s.errPos := rfl
@[simp] theorem closeContainer_result (s : State) : (closeContainer s).result = s.result := rfl
@[simp] theorem closeContainer_cpos (s : State) : (closeContainer s).cpos = s.cpos := rfl
@[simp] theorem closeContainer_curch (s : State) : (closeContainer s).curch = s.curch := rfl
@[simp] theorem closeContainer_desc (s : State) : (closeContainer s).desc = s.desc := rfl
@[simp] theorem closeContainer_img (s : State) : (closeContainer s).img = s.img := rfl
@[simp] theorem closeContainer_contLen (s : State) : (closeContainer s).contLen = s.cpos := rfl
@[simp] theorem closeContainer_cont (s : State) : (closeContainer s).cont = s.cont := rfl
@[simp] theorem closeContainer_resN (s : State) : (closeContainer s).resN = s.resN := rfl
@[simp] theorem closeContainer_res (s : State) : (closeContainer s).res = s.res := rfl
@[simp] theorem closeContainer_freq (s : State) : (closeContainer s).freq = s.freq := rfl
@[simp] theorem closeContainer_len (s : State) : (closeContainer s).len = s.len := rfl
@[simp] theorem closeContainer_tbl (s : State) : (closeContainer s).tbl = s.tbl := rfl
@[simp] theorem closeContainer_payLen (s : State) : (closeContainer s).payLen = s.payLen := rfl
@[simp] theorem closeContainer_pay (s : State) : (closeContainer s).pay = s.pay := rfl
@[simp] theorem closeContainer_pkAcc (s : State) : (closeContainer s).pkAcc = s.pkAcc := rfl
@[simp] theorem closeContainer_pkNb (s : State) : (closeContainer s).pkNb = s.pkNb := rfl
@[simp] theorem closeContainer_upPos (s : State) : (closeContainer s).upPos = s.upPos := rfl
@[simp] theorem closeContainer_upBit (s : State) : (closeContainer s).upBit = s.upBit := rfl
@[simp] theorem closeContainer_trie (s : State) : (closeContainer s).trie = s.trie := rfl
@[simp] theorem closeContainer_port (s : State) : (closeContainer s).port = s.port := rfl
@[simp] theorem closeContainer_running (s : State) : (closeContainer s).running = s.running := rfl
@[simp] theorem closeContainer_portData (s : State) : (closeContainer s).portData = s.portData := rfl
@[simp] theorem closeContainer_busyReads (s : State) : (closeContainer s).busyReads = s.busyReads := rfl

/-! ## `histogram` -/

@[simp] theorem histogram_cfg (s : State) : (histogram s).cfg = s.cfg := by simp only [histogram]
@[simp] theorem histogram_status (s : State) : (histogram s).status = s.status := by simp only [histogram]
@[simp] theorem histogram_errKind (s : State) : (histogram s).errKind = s.errKind := by simp only [histogram]
@[simp] theorem histogram_errCause (s : State) : (histogram s).errCause = s.errCause := by simp only [histogram]
@[simp] theorem histogram_errCh (s : State) : (histogram s).errCh = s.errCh := by simp only [histogram]
@[simp] theorem histogram_errPos (s : State) : (histogram s).errPos = s.errPos := by simp only [histogram]
@[simp] theorem histogram_result (s : State) : (histogram s).result = s.result := by simp only [histogram]
@[simp] theorem histogram_cpos (s : State) : (histogram s).cpos = s.cpos := by simp only [histogram]
@[simp] theorem histogram_curch (s : State) : (histogram s).curch = s.curch := by simp only [histogram]
@[simp] theorem histogram_desc (s : State) : (histogram s).desc = s.desc := by simp only [histogram]
@[simp] theorem histogram_img (s : State) : (histogram s).img = s.img := by simp only [histogram]
@[simp] theorem histogram_contLen (s : State) : (histogram s).contLen = s.contLen := by simp only [histogram]
@[simp] theorem histogram_cont (s : State) : (histogram s).cont = s.cont := by simp only [histogram]
@[simp] theorem histogram_resN (s : State) : (histogram s).resN = s.resN := by simp only [histogram]
@[simp] theorem histogram_res (s : State) : (histogram s).res = s.res := by simp only [histogram]
@[simp] theorem histogram_freq (s : State) : (histogram s).freq = histogramOf s.resBytes := by simp only [histogram]
@[simp] theorem histogram_len (s : State) : (histogram s).len = s.len := by simp only [histogram]
@[simp] theorem histogram_tbl (s : State) : (histogram s).tbl = s.tbl := by simp only [histogram]
@[simp] theorem histogram_payLen (s : State) : (histogram s).payLen = s.payLen := by simp only [histogram]
@[simp] theorem histogram_pay (s : State) : (histogram s).pay = s.pay := by simp only [histogram]
@[simp] theorem histogram_pkAcc (s : State) : (histogram s).pkAcc = s.pkAcc := by simp only [histogram]
@[simp] theorem histogram_pkNb (s : State) : (histogram s).pkNb = s.pkNb := by simp only [histogram]
@[simp] theorem histogram_upPos (s : State) : (histogram s).upPos = s.upPos := by simp only [histogram]
@[simp] theorem histogram_upBit (s : State) : (histogram s).upBit = s.upBit := by simp only [histogram]
@[simp] theorem histogram_trie (s : State) : (histogram s).trie = s.trie := by simp only [histogram]
@[simp] theorem histogram_port (s : State) : (histogram s).port = s.port := by simp only [histogram]
@[simp] theorem histogram_running (s : State) : (histogram s).running = s.running := by simp only [histogram]
@[simp] theorem histogram_portData (s : State) : (histogram s).portData = s.portData := by simp only [histogram]
@[simp] theorem histogram_busyReads (s : State) : (histogram s).busyReads = s.busyReads := by simp only [histogram]

/-! ## `buildLengths` -/

@[simp] theorem buildLengths_cfg (s : State) : (buildLengths s).cfg = s.cfg := by simp only [buildLengths]
@[simp] theorem buildLengths_status (s : State) : (buildLengths s).status = s.status := by simp only [buildLengths]
@[simp] theorem buildLengths_errKind (s : State) : (buildLengths s).errKind = s.errKind := by simp only [buildLengths]
@[simp] theorem buildLengths_errCause (s : State) : (buildLengths s).errCause = s.errCause := by simp only [buildLengths]
@[simp] theorem buildLengths_errCh (s : State) : (buildLengths s).errCh = s.errCh := by simp only [buildLengths]
@[simp] theorem buildLengths_errPos (s : State) : (buildLengths s).errPos = s.errPos := by simp only [buildLengths]
@[simp] theorem buildLengths_result (s : State) : (buildLengths s).result = s.result := by simp only [buildLengths]
@[simp] theorem buildLengths_cpos (s : State) : (buildLengths s).cpos = s.cpos := by simp only [buildLengths]
@[simp] theorem buildLengths_curch (s : State) : (buildLengths s).curch = s.curch := by simp only [buildLengths]
@[simp] theorem buildLengths_desc (s : State) : (buildLengths s).desc = s.desc := by simp only [buildLengths]
@[simp] theorem buildLengths_img (s : State) : (buildLengths s).img = s.img := by simp only [buildLengths]
@[simp] theorem buildLengths_contLen (s : State) : (buildLengths s).contLen = s.contLen := by simp only [buildLengths]
@[simp] theorem buildLengths_cont (s : State) : (buildLengths s).cont = s.cont := by simp only [buildLengths]
@[simp] theorem buildLengths_resN (s : State) : (buildLengths s).resN = s.resN := by simp only [buildLengths]
@[simp] theorem buildLengths_res (s : State) : (buildLengths s).res = s.res := by simp only [buildLengths]
@[simp] theorem buildLengths_freq (s : State) : (buildLengths s).freq = s.freq := by simp only [buildLengths]
@[simp] theorem buildLengths_len (s : State) : (buildLengths s).len = huffmanLengths s.freq := by simp only [buildLengths]
@[simp] theorem buildLengths_tbl (s : State) : (buildLengths s).tbl = s.tbl := by simp only [buildLengths]
@[simp] theorem buildLengths_payLen (s : State) : (buildLengths s).payLen = s.payLen := by simp only [buildLengths]
@[simp] theorem buildLengths_pay (s : State) : (buildLengths s).pay = s.pay := by simp only [buildLengths]
@[simp] theorem buildLengths_pkAcc (s : State) : (buildLengths s).pkAcc = s.pkAcc := by simp only [buildLengths]
@[simp] theorem buildLengths_pkNb (s : State) : (buildLengths s).pkNb = s.pkNb := by simp only [buildLengths]
@[simp] theorem buildLengths_upPos (s : State) : (buildLengths s).upPos = s.upPos := by simp only [buildLengths]
@[simp] theorem buildLengths_upBit (s : State) : (buildLengths s).upBit = s.upBit := by simp only [buildLengths]
@[simp] theorem buildLengths_trie (s : State) : (buildLengths s).trie = s.trie := by simp only [buildLengths]
@[simp] theorem buildLengths_port (s : State) : (buildLengths s).port = s.port := by simp only [buildLengths]
@[simp] theorem buildLengths_running (s : State) : (buildLengths s).running = s.running := by simp only [buildLengths]
@[simp] theorem buildLengths_portData (s : State) : (buildLengths s).portData = s.portData := by simp only [buildLengths]
@[simp] theorem buildLengths_busyReads (s : State) : (buildLengths s).busyReads = s.busyReads := by simp only [buildLengths]

/-! ## `buildTrie` -/

@[simp] theorem buildTrie_cfg (s : State) : (buildTrie s).cfg = s.cfg := by simp only [buildTrie]
@[simp] theorem buildTrie_status (s : State) : (buildTrie s).status = s.status := by simp only [buildTrie]
@[simp] theorem buildTrie_errKind (s : State) : (buildTrie s).errKind = s.errKind := by simp only [buildTrie]
@[simp] theorem buildTrie_errCause (s : State) : (buildTrie s).errCause = s.errCause := by simp only [buildTrie]
@[simp] theorem buildTrie_errCh (s : State) : (buildTrie s).errCh = s.errCh := by simp only [buildTrie]
@[simp] theorem buildTrie_errPos (s : State) : (buildTrie s).errPos = s.errPos := by simp only [buildTrie]
@[simp] theorem buildTrie_result (s : State) : (buildTrie s).result = s.result := by simp only [buildTrie]
@[simp] theorem buildTrie_cpos (s : State) : (buildTrie s).cpos = s.cpos := by simp only [buildTrie]
@[simp] theorem buildTrie_curch (s : State) : (buildTrie s).curch = s.curch := by simp only [buildTrie]
@[simp] theorem buildTrie_desc (s : State) : (buildTrie s).desc = s.desc := by simp only [buildTrie]
@[simp] theorem buildTrie_img (s : State) : (buildTrie s).img = s.img := by simp only [buildTrie]
@[simp] theorem buildTrie_contLen (s : State) : (buildTrie s).contLen = s.contLen := by simp only [buildTrie]
@[simp] theorem buildTrie_cont (s : State) : (buildTrie s).cont = s.cont := by simp only [buildTrie]
@[simp] theorem buildTrie_resN (s : State) : (buildTrie s).resN = s.resN := by simp only [buildTrie]
@[simp] theorem buildTrie_res (s : State) : (buildTrie s).res = s.res := by simp only [buildTrie]
@[simp] theorem buildTrie_freq (s : State) : (buildTrie s).freq = s.freq := by simp only [buildTrie]
@[simp] theorem buildTrie_len (s : State) : (buildTrie s).len = s.len := by simp only [buildTrie]
@[simp] theorem buildTrie_tbl (s : State) : (buildTrie s).tbl = s.tbl := by simp only [buildTrie]
@[simp] theorem buildTrie_payLen (s : State) : (buildTrie s).payLen = s.payLen := by simp only [buildTrie]
@[simp] theorem buildTrie_pay (s : State) : (buildTrie s).pay = s.pay := by simp only [buildTrie]
@[simp] theorem buildTrie_pkAcc (s : State) : (buildTrie s).pkAcc = s.pkAcc := by simp only [buildTrie]
@[simp] theorem buildTrie_pkNb (s : State) : (buildTrie s).pkNb = s.pkNb := by simp only [buildTrie]
@[simp] theorem buildTrie_upPos (s : State) : (buildTrie s).upPos = s.upPos := by simp only [buildTrie]
@[simp] theorem buildTrie_upBit (s : State) : (buildTrie s).upBit = s.upBit := by simp only [buildTrie]
@[simp] theorem buildTrie_trie (s : State) : (buildTrie s).trie = trieOf s.tbl := by simp only [buildTrie]
@[simp] theorem buildTrie_port (s : State) : (buildTrie s).port = s.port := by simp only [buildTrie]
@[simp] theorem buildTrie_running (s : State) : (buildTrie s).running = s.running := by simp only [buildTrie]
@[simp] theorem buildTrie_portData (s : State) : (buildTrie s).portData = s.portData := by simp only [buildTrie]
@[simp] theorem buildTrie_busyReads (s : State) : (buildTrie s).busyReads = s.busyReads := by simp only [buildTrie]

/-! ## `raise` -/

@[simp] theorem raise_cfg (cls : ErrClass) (r : Raise) (s : State) : (raise cls r s).cfg = s.cfg := by
  cases cls <;> simp [raise, invalidateOutput]
@[simp] theorem raise_status (cls : ErrClass) (r : Raise) (s : State) : (raise cls r s).status = .error := by
  cases cls <;> simp [raise, invalidateOutput]
@[simp] theorem raise_errKind (cls : ErrClass) (r : Raise) (s : State) : (raise cls r s).errKind = r.cause.kind := by
  cases cls <;> simp [raise, invalidateOutput]
@[simp] theorem raise_errCause (cls : ErrClass) (r : Raise) (s : State) : (raise cls r s).errCause = r.cause.code := by
  cases cls <;> simp [raise, invalidateOutput]
@[simp] theorem raise_errCh (cls : ErrClass) (r : Raise) (s : State) : (raise cls r s).errCh = r.ch := by
  cases cls <;> simp [raise, invalidateOutput]
@[simp] theorem raise_errPos (cls : ErrClass) (r : Raise) (s : State) : (raise cls r s).errPos = BitVec.ofNat 64 r.pos := by
  cases cls <;> simp [raise, invalidateOutput]
@[simp] theorem raise_result (cls : ErrClass) (r : Raise) (s : State) : (raise cls r s).result = s.result := by
  cases cls <;> simp [raise, invalidateOutput]
@[simp] theorem raise_cpos (cls : ErrClass) (r : Raise) (s : State) : (raise cls r s).cpos = 0 := by
  cases cls <;> simp [raise, invalidateOutput]
@[simp] theorem raise_curch (cls : ErrClass) (r : Raise) (s : State) : (raise cls r s).curch = NOCH := by
  cases cls <;> simp [raise, invalidateOutput]
@[simp] theorem raise_resN (cls : ErrClass) (r : Raise) (s : State) : (raise cls r s).resN = 0 := by
  cases cls <;> simp [raise, invalidateOutput]
@[simp] theorem raise_res (cls : ErrClass) (r : Raise) (s : State) : (raise cls r s).res = s.res.scramble := by
  cases cls <;> simp [raise, invalidateOutput]
@[simp] theorem raise_freq (cls : ErrClass) (r : Raise) (s : State) : (raise cls r s).freq = Vector.replicate 256 0 := by
  cases cls <;> simp [raise, invalidateOutput]
@[simp] theorem raise_len (cls : ErrClass) (r : Raise) (s : State) : (raise cls r s).len = Vector.replicate 256 0 := by
  cases cls <;> simp [raise, invalidateOutput]
@[simp] theorem raise_tbl (cls : ErrClass) (r : Raise) (s : State) : (raise cls r s).tbl = Table.zero := by
  cases cls <;> simp [raise, invalidateOutput]
@[simp] theorem raise_payLen (cls : ErrClass) (r : Raise) (s : State) : (raise cls r s).payLen = 0 := by
  cases cls <;> simp [raise, invalidateOutput]
@[simp] theorem raise_pay (cls : ErrClass) (r : Raise) (s : State) : (raise cls r s).pay = s.pay.scramble := by
  cases cls <;> simp [raise, invalidateOutput]
@[simp] theorem raise_pkAcc (cls : ErrClass) (r : Raise) (s : State) : (raise cls r s).pkAcc = 0 := by
  cases cls <;> simp [raise, invalidateOutput]
@[simp] theorem raise_pkNb (cls : ErrClass) (r : Raise) (s : State) : (raise cls r s).pkNb = 0 := by
  cases cls <;> simp [raise, invalidateOutput]
@[simp] theorem raise_upPos (cls : ErrClass) (r : Raise) (s : State) : (raise cls r s).upPos = 0 := by
  cases cls <;> simp [raise, invalidateOutput]
@[simp] theorem raise_upBit (cls : ErrClass) (r : Raise) (s : State) : (raise cls r s).upBit = 0 := by
  cases cls <;> simp [raise, invalidateOutput]
@[simp] theorem raise_trie (cls : ErrClass) (r : Raise) (s : State) : (raise cls r s).trie = [TrieNode.fresh] := by
  cases cls <;> simp [raise, invalidateOutput]
@[simp] theorem raise_port (cls : ErrClass) (r : Raise) (s : State) : (raise cls r s).port = s.port := by
  cases cls <;> simp [raise, invalidateOutput]
@[simp] theorem raise_running (cls : ErrClass) (r : Raise) (s : State) : (raise cls r s).running = s.running := by
  cases cls <;> simp [raise, invalidateOutput]
@[simp] theorem raise_portData (cls : ErrClass) (r : Raise) (s : State) : (raise cls r s).portData = s.portData := by
  cases cls <;> simp [raise, invalidateOutput]
@[simp] theorem raise_busyReads (cls : ErrClass) (r : Raise) (s : State) : (raise cls r s).busyReads = s.busyReads := by
  cases cls <;> simp [raise, invalidateOutput]
@[simp] theorem raise_e_contLen (r : Raise) (s : State) : (raise .e r s).contLen = s.contLen := by
  simp [raise, invalidateOutput]
@[simp] theorem raise_cw_contLen (r : Raise) (s : State) : (raise .cw r s).contLen = 0 := by
  simp [raise, invalidateOutput]
@[simp] theorem raise_iw_contLen (r : Raise) (s : State) : (raise .iw r s).contLen = s.contLen := by
  simp [raise, invalidateOutput]
@[simp] theorem raise_e_cont (r : Raise) (s : State) : (raise .e r s).cont = s.cont := by
  simp [raise, invalidateOutput]
@[simp] theorem raise_cw_cont (r : Raise) (s : State) : (raise .cw r s).cont = s.cont.scramble := by
  simp [raise, invalidateOutput]
@[simp] theorem raise_iw_cont (r : Raise) (s : State) : (raise .iw r s).cont = s.cont := by
  simp [raise, invalidateOutput]
@[simp] theorem raise_e_desc (r : Raise) (s : State) : (raise .e r s).desc = s.desc := by
  simp [raise, invalidateOutput]
@[simp] theorem raise_cw_desc (r : Raise) (s : State) : (raise .cw r s).desc = s.desc := by
  simp [raise, invalidateOutput]
@[simp] theorem raise_iw_desc (r : Raise) (s : State) : (raise .iw r s).desc = Desc.zero := by
  simp [raise, invalidateOutput]
@[simp] theorem raise_e_img (r : Raise) (s : State) : (raise .e r s).img = s.img := by
  simp [raise, invalidateOutput]
@[simp] theorem raise_cw_img (r : Raise) (s : State) : (raise .cw r s).img = s.img := by
  simp [raise, invalidateOutput]
@[simp] theorem raise_iw_img (r : Raise) (s : State) : (raise .iw r s).img = s.img.scramble := by
  simp [raise, invalidateOutput]

end Sys2Proof.Machine
end

