-- ==== Sys2Proof/Laws/Commands.lean ====
section
/-! SUPPORT. One lemma per shared operation that says everything it can do: the end of a command, the checks, the container
cursor, the packer's and the unpacker's single steps, the empty table. Later proofs cite these and do not unfold the operation. -/

namespace Sys2Proof.Machine

/-! ## The end of a command -/

@[simp] theorem endCommand_ok (cls : ErrClass) (s t : State) : endCommand cls s (.ok t) = complete t := rfl

@[simp] theorem endCommand_error (cls : ErrClass) (s : State) (e : Raise) : endCommand cls s (.error e) = raise cls e s := rfl

/-- A command ends in ERROR exactly when its body raised. -/
theorem endCommand_status (cls : ErrClass) (s : State) (r : Except Raise State) :
    (endCommand cls s r).status = .error ↔ ∃ e, r = .error e := by
  cases r <;> simp

/-- Every command on every state answers a next state. -/
theorem exec_next (i : Instr) (s : State) : ∃ t, exec i s = .next t := by
  cases i <;> exact ⟨_, rfl⟩

/-! ## Capacities and checks -/

@[simp] theorem overCap_none (n : Nat) : overCap none n = false := rfl

@[simp] theorem overCap_some (k n : Nat) : overCap (some k) n = decide (k < n) := rfl

theorem overCap_mono {cap : Option Nat} {m n : Nat} (h : m ≤ n) (hn : overCap cap n = false) : overCap cap m = false := by
  cases cap with
  | none => rfl
  | some k => simp only [overCap_some, decide_eq_false_iff_not] at *; omega

theorem checkRes_eq (s : State) :
    checkRes s = if overCap s.cfg.resCap s.resN.toNat then .error ⟨.capRes, s.resN.toNat, s.curch⟩ else .ok () := rfl

theorem checkPay_eq (s : State) :
    checkPay s = if overCap s.cfg.payCap s.payLen.toNat then .error ⟨.capPay, s.payLen.toNat, s.curch⟩ else .ok () := rfl

theorem checkCont_eq (s : State) :
    checkCont s = if overCap s.cfg.contCap s.contLen.toNat then .error ⟨.capCont, s.contLen.toNat, s.curch⟩ else .ok () := rfl

theorem checkResOut_eq (d : Dims) (s : State) :
    checkResOut d s = if overCap s.cfg.resCap d.n then .error ⟨.capRes, d.n, s.curch⟩ else .ok () := rfl

/-- `ValidateImage()` yields the declared dimensions, or raises the first check that fails. -/
theorem validateImage_eq (s : State) :
    validateImage s =
      match imageFault s with
      | none => .ok s.desc.dims
      | some (c, p) => .error ⟨c, p, s.curch⟩ := by
  have h8 : (s.desc.depth = 8) ↔ s.desc.depth.toNat = 8 := by simp [BitVec.toNat_eq]
  have h1 : (s.desc.channels = 1) ↔ s.desc.channels.toNat = 1 := by simp [BitVec.toNat_eq]
  have h3 : (s.desc.channels = 3) ↔ s.desc.channels.toNat = 3 := by simp [BitVec.toNat_eq]
  have hw : (s.desc.width = 0) ↔ s.desc.width.toNat = 0 := by simp [BitVec.toNat_eq]
  have hh : (s.desc.height = 0) ↔ s.desc.height.toNat = 0 := by simp [BitVec.toNat_eq]
  simp only [validateImage, imageFault, Desc.dims, Dims.n, State.failure, ne_eq, h8, h1, h3, hw, hh]
  by_cases c1 : s.desc.depth.toNat = 8
  · by_cases c2 : ¬s.desc.channels.toNat = 1 ∧ ¬s.desc.channels.toNat = 3
    · simp [c1, c2]
    · by_cases c3 : s.desc.width.toNat = 0 ∨ s.desc.height.toNat = 0
      · simp [c1, c2, c3]
      · by_cases c4 : overCap s.cfg.imgCap (s.desc.width.toNat * s.desc.height.toNat * s.desc.channels.toNat)
        · simp [c1, c2, c3, c4]
        · simp [c1, c2, c3, c4]
  · simp [c1]

/-! ## The container cursor -/

/-- `ContRead`: the whole field or nothing. -/
theorem contRead_eq (n : Nat) (c : Cause) (s : State) :
    contRead n c s =
      if s.contLen.toNat < s.cpos.toNat + n then .error ⟨c, s.cpos.toNat, s.curch⟩
      else .ok (s.cont.readBytes s.cpos.toNat n, { s with cpos := s.cpos + BitVec.ofNat 64 n }) := rfl

/-- The cursor after a read: it stays within the container, so it does not wrap. -/
theorem contRead_ok_cpos {n : Nat} {c : Cause} {s t : State} {bs : List Byte} (h : contRead n c s = .ok (bs, t)) :
    t.cpos.toNat = s.cpos.toNat + n ∧ t.cpos.toNat ≤ s.contLen.toNat ∧ bs = s.cont.readBytes s.cpos.toNat n ∧
      t = { s with cpos := t.cpos } := by
  rw [contRead_eq] at h
  split at h
  · cases h
  · next hlt =>
    have hle : s.cpos.toNat + n ≤ s.contLen.toNat := by omega
    have hb := s.contLen.isLt
    simp only [Except.ok.injEq, Prod.mk.injEq] at h
    obtain ⟨rfl, rfl⟩ := h
    have : (s.cpos + BitVec.ofNat 64 n).toNat = s.cpos.toNat + n := by
      simp only [BitVec.toNat_add, BitVec.toNat_ofNat]; omega
    exact ⟨this, by simp only [this]; exact hle, rfl, rfl⟩

/-- `ContWrite`, when there is room: the bytes lie at the old cursor and the cursor stands behind them. -/
theorem contWrite_ok {bs : List Byte} {s : State} (hcap : overCap s.cfg.contCap (s.cpos.toNat + bs.length) = false)
    (hlen : s.cpos.toNat + bs.length < 2 ^ 64) :
    contWrite bs s =
      .ok { s with
        cont := s.cont.writeBytes s.cpos.toNat bs, cpos := BitVec.ofNat 64 (s.cpos.toNat + bs.length) } := by
  have h1 : (decide (2 ^ 64 - 1 < s.cpos.toNat + bs.length)) = false := by simp; omega
  have h2 : s.cpos + BitVec.ofNat 64 bs.length = BitVec.ofNat 64 (s.cpos.toNat + bs.length) := by
    apply BitVec.eq_of_toNat_eq
    simp [BitVec.toNat_add, BitVec.toNat_ofNat, Nat.add_mod]
  simp only [contWrite, hcap, h1, Bool.or_self, Bool.false_eq_true, if_false, h2]

/-- `ContWrite`, when it succeeds: there was room, and only `CONTMEM` and `CPOS` have changed. -/
theorem contWrite_inv {bs : List Byte} {s t : State} (h : contWrite bs s = .ok t) :
    overCap s.cfg.contCap (s.cpos.toNat + bs.length) = false ∧ s.cpos.toNat + bs.length < 2 ^ 64 ∧
      t = { s with
        cont := s.cont.writeBytes s.cpos.toNat bs, cpos := BitVec.ofNat 64 (s.cpos.toNat + bs.length) } := by
  have hc := h
  simp only [contWrite] at hc
  split at hc
  · cases hc
  · next hn =>
    simp only [Bool.or_eq_true, decide_eq_true_eq, not_or, Bool.not_eq_true] at hn
    have h1 : overCap s.cfg.contCap (s.cpos.toNat + bs.length) = false := hn.1
    have h2 : s.cpos.toNat + bs.length < 2 ^ 64 := by omega
    rw [contWrite_ok h1 h2] at h
    exact ⟨h1, h2, (Except.ok.inj h).symm⟩

/-- `ContWrite`, when there is no room: `CapacityError` (`CONT`) at the unmoved cursor. -/
theorem contWrite_full {bs : List Byte} {s : State} (h : overCap s.cfg.contCap (s.cpos.toNat + bs.length) = true) :
    contWrite bs s = .error ⟨.capCont, s.cpos.toNat, s.curch⟩ := by
  simp only [contWrite, h, Bool.true_or, if_true, State.failure]

@[simp] theorem fieldFault_nil (cap : Option Nat) (off : Nat) : fieldFault cap off [] = none := rfl

theorem fieldFault_cons (cap : Option Nat) (off n : Nat) (ns : List Nat) :
    fieldFault cap off (n :: ns) = if overCap cap (off + n) then some off else fieldFault cap (off + n) ns := rfl

/-- Fields whose end is within the capacity all fit. -/
theorem fieldFault_none {cap : Option Nat} {ns : List Nat} {off : Nat} (h : overCap cap (off + ns.sum) = false) :
    fieldFault cap off ns = none := by
  induction ns generalizing off with
  | nil => rfl
  | cons n ns ih =>
    rw [List.sum_cons, ← Nat.add_assoc] at h
    rw [fieldFault_cons, overCap_mono (Nat.le_add_right _ _) h, if_neg Bool.false_ne_true]
    exact ih h

/-! ## Rules R45 (b) and R65 -/

/-- No state has both: the host has stored 1 to `RES_N` and reads it back (rules R64 to R66), and every ephemeral bank is at
its reset value (rule R45 (b)). So no host write could satisfy both rules in ERROR, however it were defined (log 13). -/
theorem storedResN_not_ephemeralClear {t : State} (h : hostRead t 0 17 = 1) : ¬ EphemeralClear t := fun hc => by
  have h0 : t.resN.toNat = 1 := h
  rw [hc.resN] at h0
  exact absurd h0 (by decide)

/-! ## The packer -/

/-- `PackAppendByte` succeeds exactly below the limit of the payload memory. -/
theorem packAppendByte_ok_iff (b : Byte) (s : State) :
    (∃ t, packAppendByte b s = .ok t) ↔ s.payLen.toNat < payLimit s.cfg.payCap := by
  have hb := s.payLen.isLt
  have key : (overCap s.cfg.payCap (s.payLen.toNat + 1) || s.payLen.toNat == 2 ^ 64 - 1) = true ↔
      ¬ s.payLen.toNat < payLimit s.cfg.payCap := by
    cases s.cfg.payCap with
    | none => simp only [overCap_none, Bool.false_or, beq_iff_eq, payLimit]; omega
    | some k => simp only [overCap_some, Bool.or_eq_true, decide_eq_true_eq, beq_iff_eq, payLimit]; omega
  by_cases h : s.payLen.toNat < payLimit s.cfg.payCap
  · exact iff_of_true ⟨_, if_neg fun hc => key.1 hc h⟩ h
  · refine iff_of_false ?_ h
    rintro ⟨t, ht⟩
    rw [packAppendByte, if_pos (key.2 h)] at ht
    cases ht

/-- `PackAppendByte`, when it succeeds: there was room, and only `PAYMEM` and `PAY_LEN` have changed. -/
theorem packAppendByte_inv {b : Byte} {s t : State} (h : packAppendByte b s = .ok t) :
    overCap s.cfg.payCap (s.payLen.toNat + 1) = false ∧ s.payLen.toNat + 1 < 2 ^ 64 ∧
      t = { s with pay := s.pay.write s.payLen.toNat b, payLen := s.payLen + 1 } := by
  have hb := s.payLen.isLt
  unfold packAppendByte at h
  split at h
  · cases h
  · next hn =>
    simp only [Bool.or_eq_true, beq_iff_eq, not_or, Bool.not_eq_true] at hn
    exact ⟨hn.1, by omega, (Except.ok.inj h).symm⟩

/-- `PackAppendByte` raises nothing but `CapacityError` (`PAY`) at the current length. -/
theorem packAppendByte_error {b : Byte} {s : State} {e : Raise} (h : packAppendByte b s = .error e) :
    e = ⟨.capPay, s.payLen.toNat, s.curch⟩ := by
  unfold packAppendByte at h
  split at h
  · exact (Except.error.inj h).symm
  · cases h

/-- One bit shifted in: only `PK` and, for a full byte, `PAY` have changed. -/
theorem packBit_frame {b : Bool} {s t : State} (h : packBit b s = .ok t) :
    t = { s with pay := t.pay, payLen := t.payLen, pkAcc := t.pkAcc, pkNb := t.pkNb } := by
  unfold packBit at h
  split at h
  · split at h
    · next t' ht =>
      obtain ⟨-, -, rfl⟩ := packAppendByte_inv ht
      rw [← Except.ok.inj h]
    · cases h
  · rw [← Except.ok.inj h]

/-- A bit sequence packed: only `PK` and `PAY` have changed. -/
theorem packBits_frame {bs : List Bool} {s t : State} (h : packBits bs s = .ok t) :
    t = { s with pay := t.pay, payLen := t.payLen, pkAcc := t.pkAcc, pkNb := t.pkNb } := by
  induction bs generalizing s with
  | nil => rw [← Except.ok.inj h]
  | cons b bs ih =>
    unfold packBits at h
    split at h
    · next u hu => rw [ih h]; rw [packBit_frame hu]
    · cases h

/-- `PackFin()`: only `PK` and `PAY` have changed. -/
theorem packFin_frame {s t : State} (h : packFin s = .ok t) :
    t = { s with pay := t.pay, payLen := t.payLen, pkAcc := t.pkAcc, pkNb := t.pkNb } := by
  unfold packFin at h
  split at h
  · rw [← Except.ok.inj h]
  · split at h
    · next t' ht =>
      obtain ⟨-, -, rfl⟩ := packAppendByte_inv ht
      rw [← Except.ok.inj h]
    · cases h

/-- `PutSymbol`: only `PK` and `PAY` have changed. -/
theorem putSymbol_frame {v : Byte} {s t : State} (h : putSymbol v s = .ok t) :
    t = { s with pay := t.pay, payLen := t.payLen, pkAcc := t.pkAcc, pkNb := t.pkNb } := by
  unfold putSymbol at h
  split at h
  · cases h
  · exact packBits_frame h

/-! ## The unpacker -/

/-- `GetBit()`, when it succeeds: a payload byte was left, and only the bit cursor has moved. -/
theorem getBit_inv {k : Nat} {s t : State} {b : Bool} (h : getBit k s = .ok (b, t)) :
    s.upPos.toNat < s.payLen.toNat ∧ b = (s.pay.read s.upPos.toNat).getLsbD (7 - s.upBit.toNat) ∧
      t = { s with upPos := t.upPos, upBit := t.upBit } ∧ cursor t = cursor s + 1 := by
  have hp := s.payLen.isLt
  have hb := s.upBit.isLt
  unfold getBit at h
  split at h
  · cases h
  · next hn =>
    have hlt : s.upPos.toNat < s.payLen.toNat := by omega
    simp only [Except.ok.injEq, Prod.mk.injEq] at h
    obtain ⟨rfl, rfl⟩ := h
    refine ⟨hlt, rfl, ?_, ?_⟩
    · split <;> rfl
    · split
      · next h8 =>
        have : (s.upPos + 1).toNat = s.upPos.toNat + 1 := by
          rw [BitVec.toNat_add, show (1 : BitVec 64).toNat = 1 from rfl]; omega
        simp only [cursor, this, show (0 : BitVec 3).toNat = 0 from rfl]; omega
      · next h8 =>
        have : (s.upBit + 1).toNat = s.upBit.toNat + 1 := by
          rw [BitVec.toNat_add, show (1 : BitVec 3).toNat = 1 from rfl]; omega
        simp only [cursor, this]; omega

/-- `GetBit()` raises nothing but `STREAM_EXHAUSTED`, and only at the end of the payload. -/
theorem getBit_error {k : Nat} {s : State} {e : Raise} (h : getBit k s = .error e) :
    s.payLen.toNat ≤ s.upPos.toNat ∧ e = ⟨.streamExhausted, k, s.curch⟩ := by
  unfold getBit at h
  split at h
  · next hle => exact ⟨hle, (Except.error.inj h).symm⟩
  · cases h

/-- Following a code moves only the bit cursor. -/
theorem decodeFrom_frame {fuel k node : Nat} {s t : State} {v : Byte} (h : decodeFrom fuel k node s = .ok (v, t)) :
    t = { s with upPos := t.upPos, upBit := t.upBit } := by
  induction fuel generalizing node s with
  | zero =>
    unfold decodeFrom at h
    split at h
    · simp only [Except.ok.injEq, Prod.mk.injEq] at h; rw [← h.2]
    · cases h
  | succ n ih =>
    unfold decodeFrom at h
    split at h
    · simp only [Except.ok.injEq, Prod.mk.injEq] at h; rw [← h.2]
    · cases hg : getBit k s with
      | error e => rw [hg] at h; cases h
      | ok p =>
        obtain ⟨b, u⟩ := p
        simp only [hg] at h
        split at h
        · cases h
        · rw [ih h, (getBit_inv hg).2.2.1]

/-! ## The table -/

@[simp] theorem canonicalTable_len (len : Vector (BitVec 8) 256) : (canonicalTable len).len = len := rfl

theorem lengthList_zero : lengthList (Vector.replicate 256 0) = List.replicate 256 0 := by
  rw [lengthList, Vector.toList_replicate, List.map_replicate]; rfl

theorem kraftSum_unused (n : Nat) : kraftSum (List.replicate n 0) = 0 := by
  rw [kraftSum, List.map_replicate]; simp

theorem kraftValid_zero : KraftValid (Vector.replicate 256 0) := by
  rw [KraftValid, lengthList_zero, kraftSum_unused]; exact Nat.zero_le _

theorem codeOf_unused (n s : Nat) : codeOf (List.replicate n 0) s = 0 := by
  rw [codeOf, if_pos]
  rw [List.getD_eq_getElem?_getD, List.getElem?_replicate]; split <;> rfl

theorem foldl_max_replicate_zero (n : Nat) : (List.replicate n 0).foldl max 0 = 0 := by
  induction n with
  | zero => rfl
  | succ n ih => simpa [List.replicate_succ] using ih

/-- The table of no symbol is the empty table (rules R49, R154). -/
theorem canonicalTable_zero : canonicalTable (Vector.replicate 256 0) = Table.zero := by
  have hc : (Vector.ofFn fun s : Fin 256 => BitVec.ofNat 255 (codeOf (lengthList (Vector.replicate 256 0)) s.val)) =
      Vector.replicate 256 0 := by
    rw [lengthList_zero]
    apply Vector.ext
    intro i hi
    rw [Vector.getElem_ofFn, Vector.getElem_replicate, codeOf_unused]; rfl
  have hm : BitVec.ofNat 8 ((lengthList (Vector.replicate 256 0)).foldl max 0) = 0 := by
    rw [lengthList_zero, foldl_max_replicate_zero]; rfl
  rw [canonicalTable, Table.zero, hc, hm]

theorem foldl_insertSymbol_unused (ps : List ((BitVec 8 × BitVec 255) × Nat)) (t : List TrieNode) (h : ∀ p ∈ ps, p.1.1 = 0) :
    ps.foldl (fun t p => insertSymbol t p.2 p.1.1 p.1.2) t = t := by
  induction ps generalizing t with
  | nil => rfl
  | cons p ps ih =>
    simp only [List.foldl_cons]
    rw [show insertSymbol t p.2 p.1.1 p.1.2 = t by simp [insertSymbol, h p List.mem_cons_self]]
    exact ih t fun q hq => h q (List.mem_cons_of_mem _ hq)

/-- The trie of the empty table is the root alone (rules R49, R178). -/
theorem trieOf_zero : trieOf Table.zero = [TrieNode.fresh] := by
  apply foldl_insertSymbol_unused
  rintro ⟨⟨l, c⟩, i⟩ h
  have h1 := (List.mk_mem_zipIdx_iff_getElem? .. |>.1 h)
  have h2 := (List.of_mem_zip (List.mem_of_getElem? h1)).1
  simp only [Table.zero, Vector.toList_replicate] at h2
  exact List.eq_of_mem_replicate h2

end Sys2Proof.Machine
end

