-- ==== Sys2Proof/Laws/PerInstr.lean ====
section
/-! SUPPORT. One statement about every instruction as syntax, one lemma per constructor: the word of a well-formed
instruction lies in its row of the opcode map (rule R92: `w & mask = match`). -/

namespace Sys2Proof.Laws.TableRow

/-- The `match` column of rule R92. -/
def matchOf : Instr → Word
  | .nop => 0x00000000
  | .compress => 0x00000001
  | .decompress => 0x00000002
  | .clr => 0x00000003
  | .filtFwd _ => 0x00000010
  | .filtInv _ => 0x00000011
  | .hist => 0x00000020
  | .huff => 0x00000030
  | .canon => 0x00000040
  | .pkInit => 0x00000050
  | .pkPut _ => 0x00000051
  | .pkFin => 0x00000052
  | .pack => 0x00000053
  | .upInit => 0x00000058
  | .upBit => 0x00000059
  | .trie => 0x00000060
  | .trSym => 0x00000061
  | .dec => 0x00000062
  | .hdrWr => 0x00000070
  | .chnWr => 0x00000071
  | .hdrRd => 0x00000072
  | .chnRd => 0x00000073

/-- The `mask` column of rule R92. -/
def maskOf : Instr → Word
  | .filtFwd _ => 0xFFFFFCFF
  | .filtInv _ => 0xFFFFFCFF
  | .pkPut _ => 0xFFFF00FF
  | _ => 0xFFFFFFFF

/-- The word of a well-formed instruction matches the instruction's row. -/
def Statement (i : Instr) : Prop := i.wf = true → encode i &&& maskOf i = matchOf i

theorem nop : Statement .nop := by unfold Statement; decide
theorem compress : Statement .compress := by unfold Statement; decide
theorem decompress : Statement .decompress := by unfold Statement; decide
theorem clr : Statement .clr := by unfold Statement; decide
theorem filtFwd (c : Byte) : Statement (.filtFwd c) := by unfold Statement; revert c; decide +kernel
theorem filtInv (c : Byte) : Statement (.filtInv c) := by unfold Statement; revert c; decide +kernel
theorem hist : Statement .hist := by unfold Statement; decide
theorem huff : Statement .huff := by unfold Statement; decide
theorem canon : Statement .canon := by unfold Statement; decide
theorem pkInit : Statement .pkInit := by unfold Statement; decide
theorem pkPut (s : Byte) : Statement (.pkPut s) := by unfold Statement; revert s; decide +kernel
theorem pkFin : Statement .pkFin := by unfold Statement; decide
theorem pack : Statement .pack := by unfold Statement; decide
theorem upInit : Statement .upInit := by unfold Statement; decide
theorem upBit : Statement .upBit := by unfold Statement; decide
theorem trie : Statement .trie := by unfold Statement; decide
theorem trSym : Statement .trSym := by unfold Statement; decide
theorem dec : Statement .dec := by unfold Statement; decide
theorem hdrWr : Statement .hdrWr := by unfold Statement; decide
theorem chnWr : Statement .chnWr := by unfold Statement; decide
theorem hdrRd : Statement .hdrRd := by unfold Statement; decide
theorem chnRd : Statement .chnRd := by unfold Statement; decide

end Sys2Proof.Laws.TableRow
end

