-- ==== Sys2Proof/Tests/Slice0.lean ====
section
/-! SUPPORT. The model's own tests: the well-formedness smoke test, words written out from the spec decoded, one-step tests
whose expected values are the vectors of 95_test_vectors (named by their ids), and for every statement of Obligations.lean
with hypotheses a state and operands that meet them. -/

open Sys2Proof Sys2Proof.Machine Sys2Proof.Claims

namespace Sys2Proof.Tests

-- One theorem at a time: each kernel evaluation in a thread of its own would need too much memory together.
set_option Elab.async false

/-! ## Small states -/

/-- A check on the next state of an outcome. -/
def nxt (o : Host.Outcome State Fault Refusal) (f : State → Bool) : Bool :=
  match o with
  | .next t => f t
  | .fault _ => false
  | .refused _ => false

theorem of_nxt {o : Host.Outcome State Fault Refusal} {f : State → Bool} (h : nxt o f = true) :
    ∃ t, o = .next t ∧ f t = true := by
  cases o with
  | next t => exact ⟨t, rfl, h⟩
  | fault r => cases h
  | refused r => cases h

/-- A register array given by its nonzero elements. -/
def bank (w : Nat) (ps : List (Nat × Nat)) : Vector (BitVec w) 256 :=
  ps.foldl (fun v p => v.set! p.1 (BitVec.ofNat w p.2)) (Vector.replicate 256 0)

def memory (space : Nat) (bs : List Byte) : Memory := ⟨space, 0, (List.range bs.length).zip bs⟩

/-- A block with an image descriptor of depth 8 and its samples. -/
def image (w h : BitVec 32) (maxval : BitVec 16) (c : BitVec 8) (samples : List Byte) : State :=
  { State.reset with desc := ⟨w, h, maxval, c, 8⟩, img := memory 1 samples }

def residuals (bs : List Byte) (s : State) : State := { s with resN := BitVec.ofNat 64 bs.length, res := memory 3 bs }

def payload (bs : List Byte) (s : State) : State := { s with payLen := BitVec.ofNat 64 bs.length, pay := memory 4 bs }

def container (n : BitVec 64) (bs : List Byte) : State := { State.reset with contLen := n, cont := memory 2 bs }

/-- The lengths of K1. -/
def lenK1 : Vector (BitVec 8) 256 := bank 8 [(0, 2), (1, 2), (10, 1)]

/-- The table of K1, written out. -/
def tblK1 : Table := { len := lenK1, code := bank 255 [(0, 2), (1, 3), (10, 0)], maxLen := 2 }

/-- The trie of Y1, written out. -/
def trieY1 : List TrieNode :=
  [⟨4, 1, 0x100⟩, ⟨2, 3, 0x100⟩, ⟨0xFFFF, 0xFFFF, 0⟩, ⟨0xFFFF, 0xFFFF, 1⟩, ⟨0xFFFF, 0xFFFF, 10⟩]

/-- The image of V1. -/
def v1 : State := image 2 2 255 1 [10, 10, 10, 11]

/-- The image of V6. -/
def v6 : State := image 2 2 255 3 [200, 0, 5, 190, 0, 5, 0, 255, 5, 1, 0, 6]

/-- The container of V1 (P2). -/
def v1Bytes : List Byte :=
  [0x49, 0x4D, 0x4B, 0x02, 0, 0, 0, 0x02, 0, 0, 0, 0xFF, 0, 0x01] ++ [2, 2, 0, 0, 0, 0, 0, 0, 0, 0, 1] ++
    List.replicate 245 0 ++ [1, 0, 0, 0, 0x4C]

def v1Container : State := container 275 v1Bytes

/-- The whole `ERR` register, `ERR_POS` and `STATE` as a host sees them. -/
def failed (err pos : Nat) (t : State) : Bool := t.errWord.toNat == err && t.errPos.toNat == pos && t.status == .error

def errorState : State := { State.reset with status := .error, errKind := 6, errCause := 0x60, errCh := 3, errPos := 4 }

def busyState : State := { State.reset with status := .busy, running := some 0 }

def caps (i c r p : Option Nat) (s : State) : State :=
  { s with cfg := { s.cfg with imgCap := i, contCap := c, resCap := r, payCap := p } }

/-! ## Well-formedness: an ill-formed term for each check -/

theorem test_wf_filtFwd_refused : (Instr.filtFwd 4).wf = false := by decide

theorem test_wf_filtInv_refused : (Instr.filtInv 0xFF).wf = false := by decide

theorem test_wf_channel_three_accepted : (Instr.filtFwd 3).wf = true ∧ (Instr.filtInv 3).wf = true := by decide

/-! ## Decoding: words written out bit by bit from rules R90 to R92: reserved, `A`, `OP` -/

theorem test_decode_control : decode 0b00000000000000000000000000000011 = .ok .clr ∧ decode 0 = .ok .nop := ⟨rfl, rfl⟩

theorem test_decode_filter :
    decode 0b00000000000000000000000100010000 = .ok (.filtFwd 1) ∧
      decode 0b00000000000000000000001000010001 = .ok (.filtInv 2) := ⟨rfl, rfl⟩

theorem test_decode_hist : decode 0b00000000000000000000000000100000 = .ok .hist := rfl

theorem test_decode_huff : decode 0b00000000000000000000000000110000 = .ok .huff := rfl

theorem test_decode_canon : decode 0b00000000000000000000000001000000 = .ok .canon := rfl

theorem test_decode_packer :
    decode 0b00000000000000000000000001010000 = .ok .pkInit ∧
      decode 0b00000000000000000000101001010001 = .ok (.pkPut 10) ∧
      decode 0b00000000000000000000000001010010 = .ok .pkFin ∧
      decode 0b00000000000000000000000001010011 = .ok .pack ∧
      decode 0b00000000000000000000000001011000 = .ok .upInit ∧
      decode 0b00000000000000000000000001011001 = .ok .upBit := ⟨rfl, rfl, rfl, rfl, rfl, rfl⟩

theorem test_decode_trie :
    decode 0b00000000000000000000000001100000 = .ok .trie ∧
      decode 0b00000000000000000000000001100001 = .ok .trSym ∧
      decode 0b00000000000000000000000001100010 = .ok .dec := ⟨rfl, rfl, rfl⟩

theorem test_decode_container :
    decode 0b00000000000000000000000001110000 = .ok .hdrWr ∧
      decode 0b00000000000000000000000001110001 = .ok .chnWr ∧
      decode 0b00000000000000000000000001110010 = .ok .hdrRd ∧
      decode 0b00000000000000000000000001110011 = .ok .chnRd ∧
      decode 0b00000000000000000000000000000001 = .ok .compress ∧
      decode 0b00000000000000000000000000000010 = .ok .decompress := ⟨rfl, rfl, rfl, rfl, rfl, rfl⟩

/-- A3 to A8: the words that are no commands. -/
theorem test_decode_reserved :
    decode 0x00000004 = .error .reservedOpcode ∧ decode 0x000000FF = .error .reservedOpcode ∧
      decode 0x00010000 = .error .reservedBits ∧ decode 0x00000101 = .error .reservedBits ∧
      decode 0x00000410 = .error .reservedBits ∧ decode 0x00010004 = .error .reservedOpcode :=
  ⟨rfl, rfl, rfl, rfl, rfl, rfl⟩

theorem test_decodeTableWord : decodeTableWord 32 0x00000A51 = some (.pkPut 10) ∧ decodeTableWord 32 4 = none := ⟨rfl, rfl⟩

/-- The host's placing of a word: the very next step runs it. -/
theorem test_withFetchWord_runs :
    nxt (step (State.reset.withFetchWord 32 0x00000000)) (fun t => t.status == .done && t.port == []) = true := by
  decide +kernel

/-! ## One step each, with the values of 95_test_vectors -/

/-- A3. -/
theorem test_illegal_word : nxt (step (State.reset.withFetchWord 32 0x00000004)) (failed 0x00036006 4) = true := by
  decide +kernel

/-- A5. -/
theorem test_reserved_bits : nxt (step (State.reset.withFetchWord 32 0x00010000)) (failed 0x00036106 65536) = true := by
  decide +kernel

/-- A10. -/
theorem test_error_ignores : nxt (step { errorState with port := [.write 0 0 1] }) (failed 0x00036006 4) = true := by
  decide +kernel

/-- A12. -/
theorem test_clr : nxt (step { errorState with port := [.write 0 0 3] })
    (fun t => t.status == .idle && t.errWord == 0 && t.errPos == 0) = true := by decide +kernel

/-- A1. -/
theorem test_nop : nxt (exec .nop { errorState with status := .busy }) (fun t => t.status == .done && t.errPos == 4) = true := by
  decide +kernel

/-- M1, M3, M6, M7. -/
theorem test_host_port :
    (hostStore State.reset 0 11 259).desc.channels = 3 ∧ hostRead (hostStore State.reset 1 0 0x1FF) 1 0 = 0xFF ∧
      hostRead State.reset 0 99 = 0 ∧ hostRead State.reset 11 70000 = 0x100 ∧ hostRead State.reset 9 1 = 0xFFFF := by
  decide +kernel

/-- F9. -/
theorem test_filtFwd : nxt (exec (.filtFwd 0) v1) (fun t => t.resN == 4 && t.res.readBytes 0 4 == [10, 0, 10, 1]) = true := by
  decide +kernel

/-- F13. -/
theorem test_filtFwd_channel : nxt (exec (.filtFwd 1) v1) (failed 0x00016206 1) = true := by decide +kernel

/-- F12. -/
theorem test_filtInv :
    nxt (exec (.filtInv 1) (residuals [0, 0, 255, 1] (image 2 2 255 3 (List.replicate 12 9))))
      (fun t => t.img.readBytes 0 12 == [9, 0, 9, 9, 0, 9, 9, 255, 9, 9, 0, 9]) = true := by decide +kernel

/-- F15. -/
theorem test_filtInv_size : nxt (exec (.filtInv 0) (residuals [1, 2, 3] v1))
    (fun t => failed 0x00005005 3 t && t.desc == Desc.zero) = true := by decide +kernel

/-- H5. -/
theorem test_hist : nxt (exec .hist { residuals [10, 0, 10, 1] State.reset with freq := bank 64 [(77, 9)] })
    (fun t => t.freq[0] == 1 && t.freq[1] == 1 && t.freq[10] == 2 && t.freq[77] == 0) = true := by decide +kernel

/-- T2: the tie-break of decision D8. -/
theorem test_huff : nxt (exec .huff { State.reset with freq := bank 64 [(0, 1), (1, 1), (2, 2), (3, 2)] })
    (fun t => t.len[0] == 3 && t.len[1] == 3 && t.len[2] == 1 && t.len[3] == 2) = true := by decide +kernel

/-- T7: one used symbol. -/
theorem test_huff_single : nxt (exec .huff { State.reset with freq := bank 64 [(200, 9)] })
    (fun t => t.len[200] == 1 && t.len[199] == 0) = true := by decide +kernel

/-- K3. -/
theorem test_canon : nxt (exec .canon { State.reset with len := bank 8 [(65, 2), (66, 3), (67, 3), (68, 2), (69, 2)] })
    (fun t => t.tbl.maxLen == 3 && t.tbl.code[66] == 6 && t.tbl.code[67] == 7 && t.tbl.code[68] == 1 &&
      t.tbl.code[69] == 2) = true := by decide +kernel

/-- K10. -/
theorem test_canon_bad : nxt (exec .canon { State.reset with len := bank 8 [(0, 1), (1, 1), (2, 1)] })
    (failed 0x00031401 0) = true := by decide +kernel

/-- Rule R164. -/
theorem test_pkInit : nxt (exec .pkInit { State.reset with payLen := 9, pkAcc := 3, pkNb := 2 })
    (fun t => t.payLen == 0 && t.pkAcc == 0 && t.pkNb == 0) = true := by decide +kernel

/-- B4. -/
theorem test_pkPut : nxt (exec (.pkPut 1) { State.reset with tbl := tblK1, pkAcc := 4, pkNb := 4 })
    (fun t => t.pkAcc == 0x13 && t.pkNb == 6 && t.payLen == 0) = true := by decide +kernel

/-- B11. -/
theorem test_pkPut_no_code : nxt (exec (.pkPut 5) { State.reset with tbl := tblK1 }) (failed 0x00035105 5) = true := by
  decide +kernel

/-- B5. -/
theorem test_pkFin : nxt (exec .pkFin { State.reset with pkAcc := 0x13, pkNb := 6 })
    (fun t => t.pkAcc == 0 && t.pkNb == 0 && t.payLen == 1 && t.pay.read 0 == 0x4C) = true := by decide +kernel

/-- B13, with V7's table written out. -/
theorem test_pack :
    nxt (exec .pack { residuals [0, 255, 1, 128, 255] State.reset with
      tbl := ⟨bank 8 [(0, 2), (1, 3), (128, 3), (255, 1)], bank 255 [(0, 2), (1, 6), (128, 7)], 3⟩ })
      (fun t => t.payLen == 2 && t.pay.readBytes 0 2 == [0x9B, 0x80]) = true := by decide +kernel

/-- B12. -/
theorem test_pack_no_code : nxt (exec .pack { residuals [10, 7] State.reset with tbl := tblK1 })
    (fun t => failed 0x00035105 7 t && t.payLen == 0) = true := by decide +kernel

/-- Rule R172. -/
theorem test_upInit : nxt (exec .upInit { State.reset with upPos := 3, upBit := 5 })
    (fun t => t.upPos == 0 && t.upBit == 0) = true := by decide +kernel

/-- Q2. -/
theorem test_upBit : nxt (exec .upBit { payload [0x4C] State.reset with upBit := 1 })
    (fun t => t.result == 1 && t.upPos == 0 && t.upBit == 2) = true := by decide +kernel

/-- Q9. -/
theorem test_upBit_exhausted : nxt (exec .upBit { payload [0x4C] State.reset with upPos := 1 })
    (failed 0x00032802 0) = true := by decide +kernel

/-- Y1. -/
theorem test_trie : nxt (exec .trie { State.reset with tbl := tblK1 }) (fun t => t.trie == trieY1) = true := by decide +kernel

/-- Y12, the second symbol. -/
theorem test_trSym : nxt (exec .trSym { payload [0x4C] State.reset with trie := trieY1, upBit := 1 })
    (fun t => t.result == 0 && t.upBit == 3 && t.status == .done) = true := by decide +kernel

/-- Y10. -/
theorem test_trSym_empty : nxt (exec .trSym (payload [0] State.reset)) (failed 0x00034004 0) = true := by decide +kernel

/-- Y6. -/
theorem test_dec : nxt (exec .dec { payload [0x4C] State.reset with trie := trieY1, resN := 4 })
    (fun t => t.res.readBytes 0 4 == [10, 0, 10, 1] && t.upPos == 0 && t.upBit == 6) = true := by decide +kernel

/-- Y8. -/
theorem test_dec_exhausted : nxt (exec .dec { payload [0x4C] State.reset with trie := trieY1, resN := 7 })
    (failed 0x00032802 6) = true := by decide +kernel

/-- W4. -/
theorem test_hdrWr : nxt (exec .hdrWr (image 0x01020304 1 0x0A0B 1 []))
    (fun t => t.cpos == 14 && t.contLen == 14 && t.cont.readBytes 0 14 ==
      [0x49, 0x4D, 0x4B, 0x04, 0x03, 0x02, 0x01, 0x01, 0, 0, 0, 0x0B, 0x0A, 0x01]) = true := by decide +kernel

/-- X11. -/
theorem test_hdrWr_capacity : nxt (exec .hdrWr (caps none (some 13) none none v1)) (failed 0x00037107 13) = true := by
  decide +kernel

/-- W5. -/
theorem test_chnWr : nxt (exec .chnWr { payload [0x4C] State.reset with tbl := tblK1, cpos := 14 })
    (fun t => t.cpos == 275 && t.contLen == 275 && t.cont.read 24 == 1 && t.cont.read 270 == 1 && t.cont.read 274 == 0x4C) =
      true := by decide +kernel

/-- W8. -/
theorem test_hdrRd :
    nxt (exec .hdrRd (container 14 [0x49, 0x4D, 0x4B, 0x04, 0x03, 0x02, 0x01, 0x01, 0, 0, 0, 0x0B, 0x0A, 0x01]))
      (fun t => t.desc == ⟨16909060, 1, 2571, 1, 8⟩ && t.cpos == 14) = true := by decide +kernel

/-- E22. -/
theorem test_hdrRd_magic : nxt (exec .hdrRd (container 3 [0, 0x4D, 0x4B])) (failed 0x00031001 0) = true := by decide +kernel

/-- W9. -/
theorem test_chnRd : nxt (exec .chnRd { v1Container with cpos := 14 })
    (fun t => t.len[0] == 2 && t.len[1] == 2 && t.len[10] == 1 && t.payLen == 1 && t.pay.read 0 == 0x4C && t.cpos == 275) = true := by
  decide +kernel

/-- W10. -/
theorem test_chnRd_cut : nxt (exec .chnRd { v1Container with cpos := 275 }) (failed 0x00032502 275) = true := by decide +kernel

/-- V1. -/
theorem test_compress : nxt (exec .compress v1) (fun t => t.status == .done && t.contLen == 275) = true := by decide +kernel

/-- X8: an error inside the channel loop, with `ERR_CH` the channel. -/
theorem test_compress_channel_error : nxt (exec .compress (caps none none (some 3) none v1)) (failed 0x00007207 4) = true := by
  decide +kernel

/-- V1, P2. -/
theorem test_decompress : nxt (exec .decompress v1Container)
    (fun t => t.status == .done && t.cpos == 275 && t.desc == ⟨2, 2, 255, 1, 8⟩ &&
      t.img.readBytes 0 4 == [10, 10, 10, 11]) = true := by decide +kernel

/-- E11: an error inside the channel loop. -/
theorem test_decompress_channel_error :
    nxt (exec .decompress { v1Container with contLen := 272 }) (failed 0x00002602 270) = true := by decide +kernel

/-! ## Witnesses: for each statement with hypotheses, a state and operands that meet them, clause by clause -/

theorem error_of_failed {o : Host.Outcome State Fault Refusal} {err pos : Nat} (h : nxt o (failed err pos) = true) :
    ∃ t, o = .next t ∧ t.status = .error := by
  obtain ⟨t, ht, hf⟩ := of_nxt h
  simp only [failed, Bool.and_eq_true, beq_iff_eq] at hf
  exact ⟨t, ht, hf.2⟩

theorem witness_DecodeInvertsEncode : (Instr.filtInv 3).wf = true ∧ (Instr.pkPut 255).wf = true := by decide

theorem witness_DecodedWordsEncodeBack : decode 0x00000310 = .ok (.filtFwd 3) := rfl

theorem witness_ReservedWordsAreRejected :
    reservedOpcode 0x04 = true ∧ reservedOpcode 0x73 = false ∧ reservedBitsSet 0x00000310 = false ∧
      reservedBitsSet 0x00000410 = true ∧ reservedBitsSet 0x0000FF51 = false ∧ reservedBitsSet 0x00010000 = true := by
  decide

theorem witness_StepRunsDecodedCommand :
    State.reset.status = .idle ∧ { State.reset with status := .done }.status = .done ∧ decode 0x00000073 = .ok .chnRd ∧
      HostEvent.read 0 1 ≠ .wait ∧ HostEvent.reset ≠ .wait ∧ busyState.running = some 0 ∧ decode 0 = .ok .nop ∧
      State.reset.running = none :=
  ⟨rfl, rfl, rfl, by decide, by decide, rfl, rfl, rfl⟩

theorem witness_IllegalWordRaises :
    (State.reset.status = .idle ∨ State.reset.status = .done) ∧ decode 0x00000074 = .error .reservedOpcode ∧
      decode 0x00000103 = .error .reservedBits ∧ { busyState with running := some 0x00000103 }.running = some 0x00000103 :=
  ⟨.inl rfl, rfl, rfl, rfl⟩

theorem witness_ErrorStateAcceptsOnlyClr : errorState.status = .error ∧ (0x00000103 : Word) ≠ 0x00000003 := by decide

theorem witness_BusyPortIsInert : busyState.status = .busy := rfl

/-- Capacities of four bytes. -/
def smallCaps : State := caps (some 4) (some 4) (some 4) (some 4) State.reset

theorem witness_HostWriteReadsBack :
    smallCaps.status ≠ .busy ∧ elementWidth smallCaps.cfg 0 10 = some 16 ∧ elementWidth smallCaps.cfg 1 3 = some 8 ∧
      elementWidth smallCaps.cfg 4 3 = some 8 ∧ elementWidth smallCaps.cfg 5 255 = some 64 ∧
      elementWidth smallCaps.cfg 6 255 = some 8 := by decide +kernel

theorem witness_IgnoredWritesAndFixedReads :
    elementWidth smallCaps.cfg 1 4 = none ∧ elementWidth smallCaps.cfg 0 24 = none ∧ elementWidth smallCaps.cfg 7 0 = none ∧
      isRegister 6 = false ∧ isRegister 25 = false ∧ overCap smallCaps.cfg.imgCap (4 + 1) = true ∧
      overCap smallCaps.cfg.contCap (4 + 1) = true ∧ overCap smallCaps.cfg.resCap (4 + 1) = true ∧
      overCap smallCaps.cfg.payCap (4 + 1) = true ∧ smallCaps.trie.length ≤ 1 ∧ 0 < smallCaps.trie.length ∧
      smallCaps.status ≠ .busy := by decide +kernel

theorem witness_HostWriteChangesOnlyItsElement : ((1, 1) : Nat × Nat) ≠ (1, 0) ∧ ((0, 1) : Nat × Nat) ≠ (0, 0) := by decide

/-- One failing command of each class. -/
theorem witness_ErrorsLeaveTheRaisedState :
    (∃ t, exec (.pkPut 5) { State.reset with tbl := tblK1 } = .next t ∧ t.status = .error) ∧
      (∃ t, exec .hdrWr (caps none (some 13) none none v1) = .next t ∧ t.status = .error) ∧
      ∃ t, exec .hdrRd (container 3 [0, 0x4D, 0x4B]) = .next t ∧ t.status = .error :=
  ⟨error_of_failed test_pkPut_no_code, error_of_failed test_hdrWr_capacity, error_of_failed test_hdrRd_magic⟩

theorem witness_CommandsRaiseOnlyTheirKinds :
    ∃ t, exec (.filtFwd 1) v1 = .next t ∧ t.status = .error := error_of_failed test_filtFwd_channel

theorem witness_CommandsWriteOnlyTheirBanks :
    (∃ t, exec .nop State.reset = .next t ∧ t.status ≠ .error) ∧ Bank.desc ∉ writtenBanks .clr :=
  ⟨⟨_, rfl, by decide⟩, by decide⟩

/-- A count of five in each bank of four bytes, and one that fits. -/
theorem witness_InputChecksRaiseCapacity :
    let s := { smallCaps with resN := 5, payLen := 5, contLen := 5 }
    overCap s.cfg.resCap s.resN.toNat = true ∧ overCap s.cfg.payCap s.payLen.toNat = true ∧
      overCap s.cfg.contCap s.contLen.toNat = true ∧
      overCap s.cfg.resCap { s with resN := 4 }.resN.toNat = false := by decide +kernel

theorem witness_HistogramCounts :
    ([] : List Byte).length < 2 ^ 64 ∧ ([1, 1, 2] : List Byte).length < 2 ^ 64 ∧ List.Perm ([1, 1, 2] : List Byte) [2, 1, 1] := by
  decide

/-- A valid descriptor with every capacity met exactly, the last channel, and a channel, a size, a capacity that fail. -/
theorem witness_Filter :
    let s := caps (some 12) none (some 4) none { v6 with resN := 4 }
    imageFault s = none ∧ (2 : Byte).toNat < s.desc.channels.toNat ∧ s.desc.channels.toNat ≤ (3 : Byte).toNat ∧
      overCap s.cfg.resCap (s.desc.width.toNat * s.desc.height.toNat) = false ∧ overCap s.cfg.resCap s.resN.toNat = false ∧
      s.resN.toNat = s.desc.width.toNat * s.desc.height.toNat ∧
      { s with resN := 3 }.resN.toNat ≠ s.desc.width.toNat * s.desc.height.toNat ∧
      overCap (caps (some 12) none (some 3) none v6).cfg.resCap (s.desc.width.toNat * s.desc.height.toNat) = true ∧
      imageFault (caps (some 11) none none none v6) = some (.capImg, 12) ∧
      imageFault State.reset = some (.depth, 0) := by decide +kernel

theorem witness_HistCountsTheResiduals : overCap smallCaps.cfg.resCap { smallCaps with resN := 4 }.resN.toNat = false := by
  decide

/-- One and two used symbols. -/
theorem witness_usedCount :
    usedCount (bank 64 [(200, 9)]) = 1 ∧ usedCount (bank 64 [(0, 100), (255, 1)]) = 2 ∧
      (bank 64 [(200, 9)])[200] ≠ 0 ∧ (bank 64 [(200, 9)])[0] = 0 := by decide +kernel

/-- Also for `HuffLengthsAreBounded`. -/
theorem witness_HuffLengthsAreKraftValid : ∃ t, exec .huff { State.reset with freq := bank 64 [(200, 9)] } = .next t :=
  exec_next .huff _

/-- K1 is valid with a Kraft sum of exactly 1, K9 is not valid, and two used symbols of K1. -/
theorem witness_KraftValid :
    KraftValid lenK1 ∧ ¬ KraftValid (bank 8 [(0, 2), (1, 2), (5, 1), (10, 1)]) ∧
      lenK1[(0 : Byte).toNat] ≠ 0 ∧ lenK1[(1 : Byte).toNat] ≠ 0 ∧ lenK1[(2 : Byte).toNat] = 0 := by decide +kernel

theorem witness_maxLen : lenK1[(0 : Fin 256)] = 2 ∧ lenK1[(2 : Fin 256)] = 0 := by decide +kernel

/-- `PK.PUT`: no byte completed; one byte completed with room for exactly it; no room; a symbol without a code. -/
theorem witness_PkPutAppendsTheCode :
    let s := { caps none none none (some 1) State.reset with tbl := tblK1, pkNb := 6 }
    s.tbl.len[(10 : Byte).toNat] ≠ 0 ∧ (s.pkNb.toNat + s.tbl.len[(10 : Byte).toNat].toNat) / 8 = 0 ∧
      s.tbl.len[(0 : Byte).toNat] ≠ 0 ∧ (s.pkNb.toNat + s.tbl.len[(0 : Byte).toNat].toNat) / 8 = 1 ∧ payRoom s 1 = true ∧
      payRoom (caps none none none (some 0) s) 1 = false ∧ payRoom s 2 = false ∧ s.tbl.len[(5 : Byte).toNat] = 0 := by
  decide +kernel

theorem witness_PkFinPadsTheLastByte :
    State.reset.pkNb = 0 ∧
      (let s := { caps none none none (some 1) State.reset with pkNb := 7 }
       s.pkNb ≠ 0 ∧ payRoom s 1 = true ∧ payRoom (caps none none none (some 0) s) 1 = false) := by decide +kernel

/-- B7 with room for exactly one byte, B7 with no room, and B12. -/
theorem witness_PackEncodesTheResiduals :
    (let s := { residuals [10, 0, 10, 1] (caps none none (some 4) (some 1) State.reset) with tbl := tblK1 }
     let bytes := bytesOfBits ((List.range s.resN.toNat).flatMap fun i => symbolBits s.tbl (s.res.read i))
     overCap s.cfg.resCap s.resN.toNat = false ∧
      (∀ i, i < s.resN.toNat → s.tbl.len[(s.res.read i).toNat] ≠ 0) ∧
      overCap s.cfg.payCap bytes.length = false ∧ payLimit (some 0) < bytes.length ∧ payLimit s.cfg.payCap = 1) ∧
      (let s := { residuals [10, 7] (caps none none none (some 0) State.reset) with tbl := tblK1 }
       1 < s.resN.toNat ∧ s.tbl.len[(s.res.read 1).toNat] = 0 ∧
        (∀ j, j < 1 → s.tbl.len[(s.res.read j).toNat] ≠ 0) ∧
        overCap s.cfg.payCap (((List.range 1).map fun j => s.tbl.len[(s.res.read j).toNat].toNat).sum / 8) = false) := by
  decide +kernel

/-- The last bit of a payload, and its end. -/
theorem witness_UpBitReadsTheNextBit :
    (let s := { payload [0x4D] (caps none none none (some 1) State.reset) with upBit := 7 }
     overCap s.cfg.payCap s.payLen.toNat = false ∧ unreadBits s = [true]) ∧
      unreadBits { payload [0x4D] State.reset with upPos := 1 } = [] := by decide +kernel

theorem witness_TrieCommandCompletes :
    (∀ v : Fin 256, State.reset.tbl.len[v] = 0) ∧
      (∀ v : Fin 256, tblK1.len[v].toNat = if v = 10 then 1 else if v < 2 then 2 else 0) ∧
      tblK1.code[0] = 2 ∧ tblK1.code[1] = 3 ∧ tblK1.code[10] = 0 := by decide +kernel

/-- K1 is complete, K5 is not. -/
theorem witness_TrieHasOneLeafPerUsedSymbol :
    KraftValid lenK1 ∧ 4 < (trieOf (canonicalTable lenK1)).length ∧
      (trieNode (trieOf (canonicalTable lenK1)) 4).sym ≠ NONE ∧ kraftSum (lengthList lenK1) = 2 ^ 255 ∧
      KraftValid (bank 8 [(200, 1)]) ∧ kraftSum (lengthList (bank 8 [(200, 1)])) ≠ 2 ^ 255 := by decide +kernel

/-- A symbol, an absent edge, an exhausted stream. -/
theorem witness_TrSymDecodesOneSymbol :
    overCap State.reset.cfg.payCap State.reset.payLen.toNat = false ∧
      walkSymbol trieY1 0 [true, true] = .ok (1, []) ∧ walkSymbol [TrieNode.fresh] 0 [false] = .error .corruptCodePath ∧
      walkSymbol trieY1 0 [true] = .error .streamExhausted := ⟨rfl, rfl, rfl, rfl⟩

/-- Y7: the last bit of the payload is used; Y8: one symbol more. -/
theorem witness_DecDecodesTheChannel :
    walkSymbols trieY1 6 0 (payloadBits (payload [0x4C] State.reset)) = .ok ([10, 0, 10, 1, 10, 10], []) ∧
      walkSymbols trieY1 7 0 (payloadBits (payload [0x4C] State.reset)) = .error (.streamExhausted, 6) := by
  decide +kernel

/-- The state of B7 with the table as `CANON` builds it. -/
def packed : State := { residuals [10, 0, 10, 1] State.reset with tbl := canonicalTable lenK1 }

theorem packed_tbl : packed.tbl = canonicalTable lenK1 := rfl

/-- B7 with the table as `CANON` builds it. -/
theorem test_pack_K1 : nxt (exec .pack packed)
    (fun t => t.status == .done && t.payLen == 1 && t.pay.read 0 == 0x4C) = true := by decide +kernel

theorem witness_DecInvertsPack :
    ∃ s t r : State, KraftValid s.tbl.len ∧ s.tbl = canonicalTable s.tbl.len ∧ exec .pack s = .next t ∧ t.status = .done ∧
      r.cfg = s.cfg ∧ r.resN = s.resN ∧ r.trie = trieOf s.tbl ∧ r.payLen = t.payLen ∧
      ∀ a, a < t.payLen.toNat → r.pay.read a = t.pay.read a := by
  obtain ⟨t, ht, hf⟩ := of_nxt test_pack_K1
  simp only [Bool.and_eq_true, beq_iff_eq] at hf
  obtain ⟨nodes, hn⟩ : ∃ nodes, nodes = trieOf packed.tbl := ⟨_, rfl⟩
  refine ⟨packed, t, { packed with trie := nodes, payLen := t.payLen, pay := t.pay }, ?_, ?_, ht, hf.1.1, rfl, rfl, hn, rfl,
    fun _ _ => rfl⟩
  · rw [packed_tbl, canonicalTable_len]; exact witness_KraftValid.1
  · rw [packed_tbl, canonicalTable_len]

/-- A field that ends exactly at `CONT_LEN`, one that is cut; a write that ends exactly at the capacity, one that does not
fit. -/
theorem witness_ContainerCursorMovesWholeFields :
    (let s := { v1Container with cpos := 271 }
     s.cpos.toNat + 4 ≤ s.contLen.toNat ∧ s.contLen.toNat < s.cpos.toNat + 5) ∧
      overCap smallCaps.cfg.contCap (({ smallCaps with cpos := 2 } : State).cpos.toNat + ([1, 2] : List Byte).length) = false ∧
      overCap smallCaps.cfg.contCap (({ smallCaps with cpos := 2 } : State).cpos.toNat + ([1, 2, 3] : List Byte).length) =
        true := by decide +kernel

theorem witness_HdrWrWritesTheHeader :
    imageFault v1 = none ∧ overCap (caps none (some 14) none none v1).cfg.contCap 14 = false ∧
      (caps none (some 13) none none v1).cfg.contCap = some 13 ∧ imageFault { v1 with desc := ⟨2, 0, 255, 3, 8⟩ } = some (.empty, 0) := by
  decide +kernel

theorem witness_ChnWrAppendsTheRecord :
    (let s := { payload [0x4C] (caps none (some 275) none none State.reset) with cpos := 14 }
     overCap s.cfg.payCap s.payLen.toNat = false ∧ s.payLen.toNat < 2 ^ 32 ∧
      (caps none (some 274) none none s).cfg.contCap = some 274 ∧ 274 < s.cpos.toNat + (260 + s.payLen.toNat) ∧
      overCap s.cfg.contCap (s.cpos.toNat + (260 + s.payLen.toNat)) = false ∧
      s.cpos.toNat + (260 + s.payLen.toNat) < 2 ^ 64) ∧
      (let s := { State.reset with payLen := 0x100000000 }
       overCap s.cfg.payCap s.payLen.toNat = false ∧ 2 ^ 32 ≤ s.payLen.toNat) := by decide +kernel

/-- E14, E5 and V1's header. -/
theorem witness_HdrRdReadsTheHeader :
    headerFault v1Container = none ∧ headerFault { v1Container with contLen := 3 } = some (.hdrWidth, 3) ∧
      headerFault (container 14 [0x49, 0x4D, 0x4B, 2, 0, 0, 0, 2, 0, 0, 0, 0xFF, 0, 2]) = some (.badChannels, 13) := by
  decide +kernel

/-- The record of V1 whole and cut in each field (E10, E11, E1), and too large for the payload memory. -/
theorem witness_ChnRdReadsTheRecord :
    let s := { v1Container with cpos := 14 }
    let pc := uLE (s.cont.readBytes (s.cpos.toNat + 256) 4)
    overCap s.cfg.contCap s.contLen.toNat = false ∧ pc = 1 ∧ s.cpos.toNat + 260 + pc ≤ s.contLen.toNat ∧
      overCap s.cfg.payCap pc = false ∧ overCap (caps none none none (some 0) s).cfg.payCap pc = true ∧
      { s with contLen := 269 }.contLen.toNat < s.cpos.toNat + 256 ∧
      s.cpos.toNat + 256 ≤ { s with contLen := 273 }.contLen.toNat ∧
      { s with contLen := 273 }.contLen.toNat < s.cpos.toNat + 260 ∧
      s.cpos.toNat + 260 ≤ { s with contLen := 274 }.contLen.toNat ∧
      { s with contLen := 274 }.contLen.toNat < s.cpos.toNat + 260 + pc := by decide +kernel

/-- V5, the one-pixel image, with every capacity met exactly; then each of them one too small, X8 and X11. -/
theorem witness_CompressWritesTheContainer :
    let s := image 1 1 255 1 [200]
    compressFault (caps (some 1) (some 275) (some 1) (some 1) s) = none ∧
      compressFault (caps none none none (some 0) s) = some ⟨.capPay, 0, 0⟩ ∧
      compressFault (caps none (some 274) none none s) = some ⟨.capCont, 274, 0⟩ ∧
      compressFault (caps none none (some 3) none v1) = some ⟨.capRes, 4, 0⟩ ∧
      compressFault (caps none (some 13) none none v1) = some ⟨.capCont, 13, 3⟩ ∧
      compressFault { s with desc := ⟨2, 2, 255, 2, 8⟩ } = some ⟨.channels, 2, 3⟩ := by decide +kernel

theorem test_records_V1 : (containerRecords v1Container).isOk = true := by decide +kernel

/-- E11: the first check that fails in a record. -/
theorem test_records_cut :
    containerRecords { v1Container with contLen := 272 } = .error ⟨.payloadCount, 270, 0⟩ := by decide +kernel

theorem witness_DecompressReadsTheContainer :
    (∃ rss off, headerFault v1Container = none ∧ containerRecords v1Container = .ok (rss, off)) ∧
      headerFault { v1Container with contLen := 272 } = none ∧
      ∃ e, containerRecords { v1Container with contLen := 272 } = .error e := by
  refine ⟨?_, by decide +kernel, _, test_records_cut⟩
  have h := test_records_V1
  cases hr : containerRecords v1Container with
  | error e => rw [hr] at h; cases h
  | ok p => exact ⟨p.1, p.2, witness_HdrRdReadsTheHeader.1, rfl⟩

theorem compress_v1_done : ∃ t, exec .compress v1 = .next t ∧ t.status = .done ∧ t.contLen = 275 := by
  obtain ⟨t, ht, hf⟩ := of_nxt test_compress
  simp only [Bool.and_eq_true, beq_iff_eq] at hf
  exact ⟨t, ht, hf⟩

/-- Also for `UnitCommandsCompressAlike`. -/
theorem witness_DecompressInvertsCompress :
    ∃ s t r : State, exec .compress s = .next t ∧ t.status = .done ∧ r.cfg = s.cfg ∧ r.contLen = t.contLen ∧
      ∀ a, a < t.contLen.toNat → r.cont.read a = t.cont.read a := by
  obtain ⟨t, ht, hd, -⟩ := compress_v1_done
  exact ⟨v1, t, { v1 with contLen := t.contLen, cont := t.cont }, ht, hd, rfl, rfl, fun _ _ => rfl⟩

theorem test_payload_V1 : (channelPayload v1.desc.dims 0 v1.img).length = 1 := by decide +kernel

/-- E2, E1 and E18. -/
theorem witness_CorruptContainersAreRejected :
    (let r := container 275 [0, 0x4D, 0x4B]
     overCap r.cfg.contCap r.contLen.toNat = false ∧ 3 ≤ r.contLen.toNat ∧ r.cont.read 0 ≠ r.cfg.magic0) ∧
      ∃ s t r r' : State, exec .compress s = .next t ∧ t.status = .done ∧
        (r.cfg = s.cfg ∧ r.contLen.toNat + 1 = t.contLen.toNat ∧
          ∀ a, a < r.contLen.toNat → r.cont.read a = t.cont.read a) ∧
        (r'.cfg = s.cfg ∧ r'.contLen.toNat + 1 = t.contLen.toNat ∧
          (∀ a, a < r'.contLen.toNat →
            (a + 4 < t.contLen.toNat - (channelPayload s.desc.dims (s.desc.channels.toNat - 1) s.img).length ∨
              t.contLen.toNat - (channelPayload s.desc.dims (s.desc.channels.toNat - 1) s.img).length ≤ a) →
            r'.cont.read a = t.cont.read a) ∧
          uLE (r'.cont.readBytes
              (t.contLen.toNat - (channelPayload s.desc.dims (s.desc.channels.toNat - 1) s.img).length - 4) 4) + 1 =
            (channelPayload s.desc.dims (s.desc.channels.toNat - 1) s.img).length) := by
  refine ⟨by decide +kernel, ?_⟩
  obtain ⟨t, ht, hd, hl⟩ := compress_v1_done
  have hp : (channelPayload v1.desc.dims (v1.desc.channels.toNat - 1) v1.img).length = 1 := test_payload_V1
  have hn : t.contLen.toNat = 275 := by rw [hl]; rfl
  refine ⟨v1, t, { v1 with contLen := 274, cont := t.cont },
    { v1 with contLen := 274, cont := t.cont.writeBytes 270 [0, 0, 0, 0] }, ht, hd,
    ⟨rfl, by rw [hn]; rfl, fun _ _ => rfl⟩, rfl, by rw [hn]; rfl, ?_, ?_⟩
  · rw [hp, hn]
    intro a _ h
    exact Memory.read_writeBytes_outside _ _ (by simp only [List.length_cons, List.length_nil]; omega)
  · rw [hp, hn]
    show uLE ((t.cont.writeBytes 270 [0, 0, 0, 0]).readBytes 270 ([0, 0, 0, 0] : List Byte).length) + 1 = 1
    rw [Memory.readBytes_writeBytes]; rfl

theorem witness_UnitCommandsDecompressAlike : ∃ s t : State, exec .decompress s = .next t ∧ t.status = .done := by
  obtain ⟨t, ht, hf⟩ := of_nxt test_decompress
  simp only [Bool.and_eq_true, beq_iff_eq] at hf
  exact ⟨_, t, ht, hf.1.1.1⟩

/-- A state that is not reset's, with a host event left: the invariant holds of it and a step leaves it. -/
theorem witness_StepKeepsTheBlockInvariant : ∃ s t : State, Machine.Inv s ∧ step s = .next t := by
  refine ⟨{ v1 with status := .done, port := [.write 0 0 0, .wait] }, _, ?_, rfl⟩
  refine Machine.Inv.mk (by decide) (by decide) (by decide) rfl (fun _ => ⟨rfl, rfl, rfl, rfl⟩) nofun (by decide) ?_ ?_
  · exact ⟨kraftValid_zero, canonicalTable_zero.symm⟩
  · exact ⟨Vector.replicate 256 0, kraftValid_zero, by rw [canonicalTable_zero, trieOf_zero]; rfl⟩

/-- A block in ERROR whose ephemeral banks are clear and whose host next reads the error register. -/
theorem witness_ErrorKeepsTheEphemeralBanksClear :
    let s := { errorState with port := [.read 0 2] }
    Machine.Inv s ∧ s.status = .error ∧ EphemeralClear s ∧ (∀ e, s.port.head? = some e → ephemeralWrite e = false) ∧
      ∃ t, step s = .next t ∧ t.status = .error := by
  refine ⟨?_, rfl, ⟨rfl, rfl, rfl, rfl, rfl, rfl, rfl, rfl, rfl, rfl⟩, ?_, _, rfl, rfl⟩
  · refine Machine.Inv.mk (by decide) (by decide) (by decide) rfl (fun h => absurd rfl h) ?_ (by decide) ?_ ?_
    · exact fun _ => ⟨by decide, rfl, rfl, rfl, rfl, rfl, rfl⟩
    · exact ⟨kraftValid_zero, canonicalTable_zero.symm⟩
    · exact ⟨Vector.replicate 256 0, kraftValid_zero, by rw [canonicalTable_zero, trieOf_zero]; rfl⟩
  · rintro e ⟨⟩; rfl

end Sys2Proof.Tests
end

section
/-! SUPPORT. What the results of a command's stages satisfy: a small logic over `Except Raise` and over outcomes, so
that a stage's invariant is composed along its `do` block. -/

namespace Sys2Proof.Machine

/-- A stage's result satisfies `P` unless the stage raises. -/
def Yields {α : Type} (P : α → Prop) (r : Except Raise α) : Prop := ∀ a, r = .ok a → P a

section
variable {α β : Type} {P : α → Prop} {Q : β → Prop}

theorem Yields.ok {a : α} (h : P a) : Yields P (.ok a) := by
  rintro _ ⟨⟩; exact h

theorem Yields.error (e : Raise) : Yields P (.error e) := nofun

theorem Yields.trivial (r : Except Raise α) : Yields (fun _ => True) r := fun _ _ => True.intro

theorem Yields.bind {r : Except Raise α} {f : α → Except Raise β} (hr : Yields P r) (hf : ∀ a, P a → Yields Q (f a)) :
    Yields Q (r >>= f) := by
  cases r with
  | error e => exact Yields.error e
  | ok a => exact hf a (hr a rfl)

/-- A stage behind a check that changes nothing. -/
theorem Yields.after_check {r : Except Raise α} {f : α → Except Raise β} (hf : ∀ a, Yields Q (f a)) :
    Yields Q (r >>= f) :=
  (Yields.trivial r).bind fun a _ => hf a

theorem Yields.unless {c : Prop} [Decidable c] {e : Raise} {r : Except Raise α} (h : Yields P r) :
    Yields P (if c then .error e else r) := by
  split
  · exact Yields.error e
  · exact h

end

/-- Every state an outcome leads to satisfies `P`. -/
def LeadsTo (P : State → Prop) (o : Host.Outcome State Fault Refusal) : Prop := ∀ t, o = .next t → P t

theorem LeadsTo.next {P : State → Prop} {s : State} (h : P s) : LeadsTo P (.next s) := by
  rintro _ ⟨⟩; exact h

theorem LeadsTo.imp {P Q : State → Prop} {o : Host.Outcome State Fault Refusal} (h : LeadsTo P o) (hpq : ∀ t, P t → Q t) :
    LeadsTo Q o :=
  fun t ht => hpq t (h t ht)

/-! ## The loops of the commands as binds -/

theorem packBits_cons (b : Bool) (bs : List Bool) (s : State) : packBits (b :: bs) s = packBit b s >>= packBits bs := by
  rw [packBits]; cases packBit b s <;> rfl

theorem putSymbols_cons (v : Byte) (vs : List Byte) (s : State) :
    putSymbols (v :: vs) s = putSymbol v s >>= putSymbols vs := by
  rw [putSymbols]; cases putSymbol v s <;> rfl

theorem forChannels_cons (stage : Nat → State → Except Raise State) (c : Nat) (cs : List Nat) (s : State) :
    forChannels stage (c :: cs) s = stage c s >>= forChannels stage cs := by
  rw [forChannels]; cases stage c s <;> rfl

theorem decodeSymbols_succ (n k : Nat) (s : State) :
    decodeSymbols (n + 1) k s =
      decodeSymbol k s >>= fun p => decodeSymbols n (k + 1) { p.2 with res := p.2.res.write k p.1 } := by
  rw [decodeSymbols]; cases decodeSymbol k s <;> rfl

end Sys2Proof.Machine
end

section
/-! SUPPORT. The invariant of a command in progress: every stage of every command keeps it. -/

namespace Sys2Proof.Machine

/-- A byte memory in canonical form that keeps its space number. -/
structure MemoryOk (n : Nat) (m : Memory) : Prop where
  wf : m.wf
  space : m.space = n

namespace MemoryOk
variable {n : Nat} {m : Memory}

theorem write (h : MemoryOk n m) (a : Nat) (b : Byte) : MemoryOk n (m.write a b) := ⟨Memory.wf_write a b h.wf, h.space⟩

theorem writeBytes (h : MemoryOk n m) (a : Nat) (bs : List Byte) : MemoryOk n (m.writeBytes a bs) :=
  ⟨Memory.wf_writeBytes a bs h.wf, (m.writeBytes_space a bs).trans h.space⟩

theorem writeAll (h : MemoryOk n m) (ps : List (Nat × Byte)) : MemoryOk n (m.writeAll ps) :=
  ⟨Memory.wf_writeAll ps h.wf, (m.writeAll_space ps).trans h.space⟩

theorem scramble (h : MemoryOk n m) : MemoryOk n m.scramble := ⟨m.wf_scramble, h.space⟩

theorem memWrite (h : MemoryOk n m) (cap : Option Nat) (i v : Nat) : MemoryOk n (memWrite cap m i v) := by
  unfold Machine.memWrite
  split
  · exact h.write _ _
  · exact h

theorem unspecified (n e : Nat) : MemoryOk n (.unspecified n e) := ⟨Memory.wf_unspecified n e, rfl⟩

end MemoryOk

/-- The four byte memories of a state. -/
structure MemoriesOk (s : State) : Prop where
  img : MemoryOk 1 s.img
  cont : MemoryOk 2 s.cont
  res : MemoryOk 3 s.res
  pay : MemoryOk 4 s.pay

/-- The invariant of a command in progress: `Inv` but for `STATE` and `curch`, which the end of the command sets
(rules R41, R93); the command left `running` when it was taken up, and no error is recorded before a `raise`. -/
structure Executing (s : State) : Prop extends MemoriesOk s where
  running : s.running = none
  noError : s.errKind = 0 ∧ s.errCause = 0 ∧ s.errCh = 0 ∧ s.errPos = 0
  packer : s.pkAcc.toNat < 2 ^ s.pkNb.toNat
  table : KraftValid s.tbl.len ∧ s.tbl = canonicalTable s.tbl.len
  trie : ∃ len, KraftValid len ∧ s.trie = trieOf (canonicalTable len)

/-- The empty accumulator holds no bit (rule R37). -/
theorem empty_packer : (0 : BitVec 8).toNat < 2 ^ (0 : BitVec 3).toNat := by decide

/-- The empty table is the canonical table of the length table without symbols. -/
theorem tableZero_valid : KraftValid Table.zero.len ∧ Table.zero = canonicalTable Table.zero.len :=
  ⟨kraftValid_zero, canonicalTable_zero.symm⟩

/-- The root alone is the trie of the length table without symbols. -/
theorem rootTrie_valid : ∃ len, KraftValid len ∧ [TrieNode.fresh] = trieOf (canonicalTable len) :=
  ⟨_, kraftValid_zero, by rw [canonicalTable_zero, trieOf_zero]⟩

/-- Shifting a bit into an accumulator that holds `nb` bits leaves one that holds `nb + 1` (rule R161). -/
theorem shiftIn_lt {acc : BitVec 8} {nb : BitVec 3} (bit : Bool) (h : acc.toNat < 2 ^ nb.toNat) (hnb : nb.toNat + 1 ≠ 8) :
    ((acc <<< 1) ||| (BitVec.ofBool bit).setWidth 8).toNat < 2 ^ (nb + 1).toNat := by
  have hlt := nb.isLt
  have hnext : (nb + 1).toNat = nb.toNat + 1 := by
    rw [BitVec.toNat_add, show (1 : BitVec 3).toNat = 1 from rfl]; omega
  rw [hnext, BitVec.toNat_or]
  apply Nat.or_lt_two_pow
  · rw [BitVec.toNat_shiftLeft, Nat.shiftLeft_eq, pow_one]
    have := Nat.mod_le (acc.toNat * 2) (2 ^ 8)
    omega
  · have hb : ((BitVec.ofBool bit).setWidth 8).toNat ≤ 1 := by cases bit <;> decide
    have := Nat.one_lt_two_pow (n := nb.toNat + 1) (by omega)
    omega

namespace Executing
variable {s : State}

/-! ## Total operations -/

theorem resetEphemeral (h : Executing s) : Executing (resetEphemeral s) :=
  { h with
    res := h.res.scramble, pay := h.pay.scramble, packer := empty_packer, table := tableZero_valid, trie := rootTrie_valid }

theorem setCurch (h : Executing s) (c : BitVec 2) : Executing { s with curch := c } := { h with }

theorem setCpos (h : Executing s) (c : BitVec 64) : Executing { s with cpos := c } := { h with }

theorem setDesc (h : Executing s) (d : Desc) : Executing { s with desc := d } := { h with }

theorem setResN (h : Executing s) (n : BitVec 64) : Executing { s with resN := n } := { h with }

theorem setLen (h : Executing s) (l : Vector (BitVec 8) 256) : Executing { s with len := l } := { h with }

theorem setFreq (h : Executing s) (f : Vector (BitVec 64) 256) : Executing { s with freq := f } := { h with }

theorem setResult (h : Executing s) (r : BitVec 32) : Executing { s with result := r } := { h with }

theorem moveCursor (h : Executing s) (p : BitVec 64) (b : BitVec 3) : Executing { s with upPos := p, upBit := b } :=
  { h with }

theorem writeRes (h : Executing s) (a : Nat) (b : Byte) : Executing { s with res := s.res.write a b } :=
  { h with res := h.res.write a b }

theorem filterForward (h : Executing s) (d : Dims) (c : Nat) : Executing (filterForward d c s) :=
  { h with res := h.res.writeBytes _ _ }

theorem filterInverse (h : Executing s) (d : Dims) (c : Nat) : Executing (filterInverse d c s) :=
  { h with img := h.img.writeAll _ }

theorem histogram (h : Executing s) : Executing (histogram s) := by
  rw [Machine.histogram]; exact h.setFreq _

theorem buildLengths (h : Executing s) : Executing (buildLengths s) := by
  rw [Machine.buildLengths]; exact h.setLen _

theorem buildTrie (h : Executing s) : Executing (buildTrie s) :=
  { h with trie := ⟨s.tbl.len, h.table.1, congrArg trieOf h.table.2⟩ }

theorem packInit (h : Executing s) : Executing (packInit s) := { h with packer := empty_packer }

theorem unpackInit (h : Executing s) : Executing (unpackInit s) := h.moveCursor 0 0

theorem closeContainer (h : Executing s) : Executing (closeContainer s) := { h with }

/-! ## The table and the packer -/

theorem buildTable (h : Executing s) : Yields Executing (buildTable s) := by
  unfold Machine.buildTable
  split
  · exact Yields.error _
  · next hk => exact Yields.ok { h with table := ⟨Nat.le_of_not_lt hk, rfl⟩ }

theorem packAppendByte (h : Executing s) (b : Byte) : Yields Executing (packAppendByte b s) := by
  intro t ht
  obtain ⟨-, -, rfl⟩ := packAppendByte_inv ht
  exact { h with pay := h.pay.write _ _ }

/-- A full byte was appended and the accumulator is empty again. -/
theorem emptyAccumulator (h : Executing s) : Executing { s with pkAcc := 0, pkNb := 0 } := { h with packer := empty_packer }

theorem packBit (h : Executing s) (b : Bool) : Yields Executing (packBit b s) := by
  intro t ht
  unfold Machine.packBit at ht
  split at ht
  · split at ht
    · next u hu => exact Except.ok.inj ht ▸ (h.packAppendByte _ u hu).emptyAccumulator
    · cases ht
  · next hnb => exact Except.ok.inj ht ▸ { h with packer := shiftIn_lt b h.packer hnb }

theorem packBits (h : Executing s) (bs : List Bool) : Yields Executing (packBits bs s) := by
  induction bs generalizing s with
  | nil => exact Yields.ok h
  | cons b bs ih => rw [packBits_cons]; exact (h.packBit b).bind fun _ ht => ih ht

theorem packFin (h : Executing s) : Yields Executing (packFin s) := by
  intro t ht
  unfold Machine.packFin at ht
  split at ht
  · exact Except.ok.inj ht ▸ h
  · split at ht
    · next u hu => exact Except.ok.inj ht ▸ (h.packAppendByte _ u hu).emptyAccumulator
    · cases ht

theorem putSymbol (h : Executing s) (v : Byte) : Yields Executing (putSymbol v s) := Yields.unless (h.packBits _)

theorem putSymbols (h : Executing s) (vs : List Byte) : Yields Executing (putSymbols vs s) := by
  induction vs generalizing s with
  | nil => exact Yields.ok h
  | cons v vs ih => rw [putSymbols_cons]; exact (h.putSymbol v).bind fun _ ht => ih ht

theorem packChannel (h : Executing s) : Yields Executing (packChannel s) :=
  (h.packInit.putSymbols _).bind fun _ ht => ht.packFin

/-! ## The unpacker and the decoder -/

theorem getBit (h : Executing s) (k : Nat) : Yields (fun p => Executing p.2) (getBit k s) := by
  rintro ⟨b, t⟩ ht
  obtain ⟨-, -, hframe, -⟩ := getBit_inv ht
  exact hframe ▸ h.moveCursor _ _

theorem decodeSymbol (h : Executing s) (k : Nat) : Yields (fun p => Executing p.2) (decodeSymbol k s) := by
  rintro ⟨v, t⟩ ht
  exact decodeFrom_frame ht ▸ h.moveCursor _ _

theorem decodeSymbols (h : Executing s) (n k : Nat) : Yields Executing (decodeSymbols n k s) := by
  induction n generalizing s k with
  | zero => exact Yields.ok h
  | succ n ih =>
    rw [decodeSymbols_succ]
    exact (h.decodeSymbol k).bind fun _ ht => ih (ht.writeRes _ _) _

theorem decodeChannel (h : Executing s) : Yields Executing (decodeChannel s) := h.unpackInit.decodeSymbols _ _

/-! ## The container -/

theorem contRead (h : Executing s) (n : Nat) (c : Cause) : Yields (fun p => Executing p.2) (contRead n c s) :=
  Yields.unless (Yields.ok (h.setCpos _))

theorem contWrite (h : Executing s) (bs : List Byte) : Yields Executing (contWrite bs s) :=
  Yields.unless (Yields.ok { h with cont := h.cont.writeBytes _ _ })

theorem writeHeader (h : Executing s) : Yields Executing (writeHeader s) :=
  ((h.setCpos 0).contWrite _).bind fun _ h => (h.contWrite _).bind fun _ h => (h.contWrite _).bind fun _ h =>
    (h.contWrite _).bind fun _ h => h.contWrite _

theorem writeChannel (h : Executing s) : Yields Executing (writeChannel s) :=
  Yields.unless <| (h.contWrite _).bind fun _ h => (h.contWrite _).bind fun _ h => h.contWrite _

theorem readHeaderFields (h : Executing s) : Yields (fun p => Executing p.2) (readHeaderFields s) :=
  ((h.setCpos 0).contRead _ _).bind fun _ h => Yields.unless <|
    (h.contRead _ _).bind fun _ h => (h.contRead _ _).bind fun _ h => (h.contRead _ _).bind fun _ h =>
      (h.contRead _ _).bind fun _ h => Yields.ok h

theorem acceptHeader (h : Executing s) (hd : Header) : Yields Executing (acceptHeader hd s) :=
  Yields.unless <| Yields.unless <| Yields.unless <| Yields.unless <| Yields.ok (h.setDesc _)

theorem readHeader (h : Executing s) : Yields Executing (readHeader s) :=
  h.readHeaderFields.bind fun _ h => h.acceptHeader _

theorem storePayload (h : Executing s) (bs : List Byte) : Yields Executing (storePayload bs s) :=
  Yields.unless (Yields.ok { h with pay := h.pay.writeBytes _ _ })

theorem readChannel (h : Executing s) : Yields Executing (readChannel s) :=
  (h.contRead _ _).bind fun _ h => ((h.setLen _).contRead _ _).bind fun _ h => (h.contRead _ _).bind fun _ h =>
    h.storePayload _

/-! ## The channel loops -/

theorem forChannels {stage : Nat → State → Except Raise State} (h : Executing s)
    (hstage : ∀ c {s}, Executing s → Yields Executing (stage c s)) (cs : List Nat) :
    Yields Executing (forChannels stage cs s) := by
  induction cs generalizing s with
  | nil => exact Yields.ok h
  | cons c cs ih => rw [forChannels_cons]; exact (hstage c h).bind fun _ ht => ih ht

theorem compressChannel (h : Executing s) (d : Dims) (c : Nat) : Yields Executing (compressChannel d c s) :=
  Yields.after_check fun _ =>
    (((h.setCurch _).filterForward d c).histogram.buildLengths.buildTable).bind fun _ h =>
      h.packChannel.bind fun _ h => h.writeChannel

theorem decompressChannel (h : Executing s) (d : Dims) (c : Nat) : Yields Executing (decompressChannel d c s) :=
  (h.setCurch _).readChannel.bind fun _ h => h.buildTable.bind fun _ h => Yields.after_check fun _ =>
    (h.buildTrie.setResN _).decodeChannel.bind fun _ h => Yields.ok (h.filterInverse d c)

theorem compressBody (h : Executing s) : Yields Executing (compressBody s) :=
  Yields.after_check fun d => h.resetEphemeral.writeHeader.bind fun _ h =>
    (h.forChannels (fun c _ h => h.compressChannel d c) _).bind fun _ h => Yields.ok h.closeContainer.resetEphemeral

theorem decompressBody (h : Executing s) : Yields Executing (decompressBody s) :=
  Yields.after_check fun _ => h.resetEphemeral.readHeader.bind fun s h =>
    (h.forChannels (fun c _ h => h.decompressChannel s.desc.dims c) _).bind fun _ h => Yields.ok h.resetEphemeral

end Executing

end Sys2Proof.Machine
end

section
/-! SUPPORT. The block's invariant from the end of a command to the step: how a command ends, what the host port and the
sequencer do to it. -/

namespace Sys2Proof.Machine

open Claims (ephemeralWrite)

/-! ## Ways to have the invariant -/

/-- Rule R45 (b): in ERROR every ephemeral bank is at its reset value. -/
def ClearInError (s : State) : Prop := s.status = .error → EphemeralClear s

/-- The invariant of a block whose ephemeral banks are clear: after reset, `CLR` or a `raise`. -/
theorem EphemeralClear.inv {s : State} (hc : EphemeralClear s) (hm : MemoriesOk s) (hrun : s.running = none)
    (hbusy : s.status ≠ .busy) (hch : s.curch = NOCH)
    (hno : s.status ≠ .error → s.errKind = 0 ∧ s.errCause = 0 ∧ s.errCh = 0 ∧ s.errPos = 0)
    (herr : s.status = .error →
      1 ≤ s.errKind.toNat ∧ s.errKind.toNat ≤ 7 ∧ s.errCause.toNat / 16 = s.errKind.toNat) : Inv s where
  memories := ⟨hm.img.wf, hm.cont.wf, hm.res.wf, hm.pay.wf⟩
  spaces := ⟨hm.img.space, hm.cont.space, hm.res.space, hm.pay.space⟩
  busy := by simp [hbusy, hrun]
  noChannel := hch
  noError := hno
  error he := ⟨herr he, hc.tbl, hc.pkAcc, hc.pkNb, hc.upPos, hc.upBit, hc.trie⟩
  packer := by rw [hc.pkAcc, hc.pkNb]; exact empty_packer
  table := by rw [hc.tbl]; exact tableZero_valid
  trie := by rw [hc.trie]; exact rootTrie_valid

theorem resetWith_clear (p : Params) : EphemeralClear (State.resetWith p) :=
  ⟨rfl, rfl, rfl, rfl, rfl, rfl, rfl, rfl, rfl, rfl⟩

theorem raise_clear (cls : ErrClass) (r : Raise) (s : State) : EphemeralClear (raise cls r s) :=
  ⟨by simp, by simp, by simp, by simp, by simp, by simp, by simp, by simp, by simp, by simp⟩

/-- The memories after reset: none of their cells is determined. -/
theorem resetWith_memories (p : Params) : MemoriesOk (State.resetWith p) :=
  ⟨.unspecified 1 0, .unspecified 2 0, .unspecified 3 0, .unspecified 4 0⟩

theorem resetWith_inv (p : Params) : Inv (State.resetWith p) :=
  (resetWith_clear p).inv (resetWith_memories p) rfl nofun rfl (fun _ => ⟨rfl, rfl, rfl, rfl⟩) nofun

namespace Inv
variable {s : State}

theorem memoriesOk (h : Inv s) : MemoriesOk s := by
  obtain ⟨hi, hc, hr, hp⟩ := h.memories
  obtain ⟨hi', hc', hr', hp'⟩ := h.spaces
  exact ⟨⟨hi, hi'⟩, ⟨hc, hc'⟩, ⟨hr, hr'⟩, ⟨hp, hp'⟩⟩

theorem running_none (h : Inv s) (hs : s.status ≠ .busy) : s.running = none := by
  simpa using mt h.busy.2 hs

/-- A block that is not in ERROR can take up a command. -/
theorem executing (h : Inv s) (hs : s.status ≠ .error) (p : Phase) (es : List HostEvent) :
    Executing { s with status := p, port := es, running := none } :=
  { h.memoriesOk with running := rfl, noError := h.noError hs, packer := h.packer, table := h.table, trie := h.trie }

theorem setPort (h : Inv s) (es : List HostEvent) : Inv { s with port := es } := { h with }

end Inv

/-! ## The end of a command -/

/-- What every command leaves: the invariant, and after a `raise` rule R45 (b) whole. -/
structure WellEnded (s : State) : Prop where
  inv : Inv s
  clear : ClearInError s

/-- The kind of a cause is one of 1 to 7 and the high nibble of its number (rules R45 (b), R237). -/
theorem Cause.kind_legal (c : Cause) : 1 ≤ c.kind.toNat ∧ c.kind.toNat ≤ 7 ∧ c.code.toNat / 16 = c.kind.toNat := by
  cases c <;> decide

theorem MemoriesOk.raise {s : State} (h : MemoriesOk s) (cls : ErrClass) (r : Raise) : MemoriesOk (raise cls r s) := by
  cases cls
  · exact ⟨h.img, h.cont, h.res.scramble, h.pay.scramble⟩
  · exact ⟨h.img, h.cont.scramble, h.res.scramble, h.pay.scramble⟩
  · exact ⟨h.img.scramble, h.cont, h.res.scramble, h.pay.scramble⟩

/-- A `raise` ends well whatever the command had done: it needs only the memories of the state the command started from. -/
theorem raise_wellEnded {s : State} (hm : MemoriesOk s) (hrun : s.running = none) (cls : ErrClass) (r : Raise) :
    WellEnded (raise cls r s) where
  inv := (raise_clear cls r s).inv (hm.raise cls r) (by simpa using hrun) (by simp) (by simp) (by simp)
    fun _ => by simpa using r.cause.kind_legal
  clear _ := raise_clear cls r s

theorem clearError_wellEnded {s : State} (hm : MemoriesOk s) (hrun : s.running = none) : WellEnded (clearError s) where
  inv := EphemeralClear.inv ⟨rfl, rfl, rfl, rfl, rfl, rfl, rfl, rfl, rfl, rfl⟩
    ⟨hm.img, hm.cont, hm.res.scramble, hm.pay.scramble⟩ hrun nofun rfl (fun _ => ⟨rfl, rfl, rfl, rfl⟩) nofun
  clear := nofun

theorem hardwareReset_wellEnded {s : State} (hm : MemoriesOk s) : WellEnded (hardwareReset s) where
  inv := EphemeralClear.inv ⟨rfl, rfl, rfl, rfl, rfl, rfl, rfl, rfl, rfl, rfl⟩
    ⟨hm.img.scramble, hm.cont.scramble, hm.res.scramble, hm.pay.scramble⟩ rfl nofun rfl
    (fun _ => ⟨rfl, rfl, rfl, rfl⟩) nofun
  clear := nofun

namespace Executing
variable {s : State}

theorem complete (h : Executing s) : WellEnded (complete s) where
  inv := {
    memories := ⟨h.img.wf, h.cont.wf, h.res.wf, h.pay.wf⟩
    spaces := ⟨h.img.space, h.cont.space, h.res.space, h.pay.space⟩
    busy := by simp [h.running]
    noChannel := rfl
    noError _ := h.noError
    error := nofun
    packer := h.packer
    table := h.table
    trie := h.trie }
  clear := nofun

theorem raise (h : Executing s) (cls : ErrClass) (r : Raise) : WellEnded (raise cls r s) :=
  raise_wellEnded h.toMemoriesOk h.running cls r

theorem endCommand (h : Executing s) (cls : ErrClass) {r : Except Raise State} (hr : Yields Executing r) :
    WellEnded (endCommand cls s r) := by
  cases r with
  | ok t => exact (hr t rfl).complete
  | error e => exact h.raise cls e

/-! ## Every command -/

/-- Every command, taken up with the invariant of a command in progress, ends well. -/
theorem exec (h : Executing s) (i : Instr) : LeadsTo WellEnded (exec i s) := by
  cases i with
  | nop => exact .next h.complete
  | compress => exact .next (h.endCommand _ h.compressBody)
  | decompress => exact .next (h.endCommand _ h.decompressBody)
  | clr => exact .next (clearError_wellEnded h.toMemoriesOk h.running)
  | filtFwd c =>
    exact .next <| h.endCommand _ <| Yields.after_check fun d => Yields.after_check fun _ => Yields.after_check fun _ =>
      Yields.ok ((h.setCurch _).filterForward d _)
  | filtInv c =>
    exact .next <| h.endCommand _ <| Yields.after_check fun _ => Yields.after_check fun d => Yields.after_check fun _ =>
      Yields.after_check fun _ => Yields.ok ((h.setCurch _).filterInverse d _)
  | hist => exact .next (h.endCommand _ (Yields.after_check fun _ => Yields.ok h.histogram))
  | huff => exact .next h.buildLengths.complete
  | canon => exact .next (h.endCommand _ h.buildTable)
  | pkInit => exact .next h.packInit.complete
  | pkPut v => exact .next (h.endCommand _ (h.putSymbol v))
  | pkFin => exact .next (h.endCommand _ h.packFin)
  | pack => exact .next (h.endCommand _ (Yields.after_check fun _ => h.packChannel))
  | upInit => exact .next h.unpackInit.complete
  | upBit =>
    exact .next <| h.endCommand _ <| Yields.after_check fun _ => (h.getBit 0).bind fun _ h => Yields.ok (h.setResult _)
  | trie => exact .next h.buildTrie.complete
  | trSym =>
    exact .next <| h.endCommand _ <| Yields.after_check fun _ =>
      (h.decodeSymbol 0).bind fun _ h => Yields.ok (h.setResult _)
  | dec => exact .next (h.endCommand _ (Yields.after_check fun _ => Yields.after_check fun _ => h.decodeChannel))
  | hdrWr =>
    exact .next <| h.endCommand _ <| Yields.after_check fun _ =>
      h.writeHeader.bind fun _ h => Yields.ok h.closeContainer
  | chnWr =>
    exact .next <| h.endCommand _ <| Yields.after_check fun _ =>
      h.writeChannel.bind fun _ h => Yields.ok h.closeContainer
  | hdrRd => exact .next (h.endCommand _ (Yields.after_check fun _ => h.readHeader))
  | chnRd => exact .next (h.endCommand _ (Yields.after_check fun _ => h.readChannel))

/-- Every accepted word, legal or not, ends well. -/
theorem runWord (h : Executing s) (w : Word) : LeadsTo WellEnded (runWord w s) := by
  unfold Machine.runWord
  split
  · exact h.exec _
  · exact .next (h.raise _ _)

end Executing

/-! ## The host port -/

namespace Inv
variable {s : State}

theorem regWrite (h : Inv s) (n v : Nat) : Inv (regWrite s n v) := by
  unfold Machine.regWrite
  split <;> exact { h with }

/-- Replacing the byte memories by others in canonical form keeps the invariant. -/
theorem setMemories (h : Inv s) {img cont res pay : Memory} (hi : MemoryOk 1 img) (hc : MemoryOk 2 cont)
    (hr : MemoryOk 3 res) (hp : MemoryOk 4 pay) : Inv { s with img := img, cont := cont, res := res, pay := pay } :=
  { h with
    memories := ⟨hi.wf, hc.wf, hr.wf, hp.wf⟩
    spaces := ⟨hi.space, hc.space, hr.space, hp.space⟩ }

/-- A host write stores into banks that the invariant leaves to the host, or into a byte memory (rule R65). -/
theorem hostStore (h : Inv s) (space i v : Nat) : Inv (hostStore s space i v) := by
  have hm := h.memoriesOk
  unfold Machine.hostStore
  split
  · exact h.regWrite i v
  · exact h.setMemories (hm.img.memWrite _ _ _) hm.cont hm.res hm.pay
  · exact h.setMemories hm.img (hm.cont.memWrite _ _ _) hm.res hm.pay
  · exact h.setMemories hm.img hm.cont (hm.res.memWrite _ _ _) hm.pay
  · exact h.setMemories hm.img hm.cont hm.res (hm.pay.memWrite _ _ _)
  · exact { h with }
  · exact { h with }
  · exact h

end Inv

/-- A host write, in any state: ignored while BUSY (rule R67), else the store. -/
theorem portStore_eq (space i v : Nat) (s : State) :
    portStore space i v s = if s.status = .busy then s else hostStore s space i v := by
  unfold portStore
  cases s.status <;> rfl

theorem Inv.portStore {s : State} (h : Inv s) (space i v : Nat) : Inv (portStore space i v s) := by
  rw [portStore_eq]
  split
  · exact h
  · exact h.hostStore space i v

/-- A host read changes nothing but the model's own two fields (rules R64, R67). -/
theorem portRead_frame (space i : Nat) (s : State) :
    ∃ d n, portRead space i s = { s with portData := d, busyReads := n } := by
  unfold portRead
  split
  · split <;> exact ⟨_, _, rfl⟩
  all_goals exact ⟨_, _, rfl⟩

theorem regWrite_status (s : State) (n v : Nat) : (regWrite s n v).status = s.status := by
  unfold regWrite
  split <;> rfl

theorem hostStore_status (s : State) (space i v : Nat) : (hostStore s space i v).status = s.status := by
  unfold hostStore
  split
  · exact regWrite_status s i v
  all_goals rfl

theorem EphemeralClear.regWrite {s : State} (h : EphemeralClear s) {n : Nat} (hr : n ≠ 17) (hp : n ≠ 18) (v : Nat) :
    EphemeralClear (regWrite s n v) := by
  unfold Machine.regWrite
  split
  case h_7 => exact absurd rfl hr
  case h_8 => exact absurd rfl hp
  all_goals exact { h with }

/-- A host write to no ephemeral bank leaves them clear. -/
theorem EphemeralClear.hostStore {s : State} (h : EphemeralClear s) {space i v : Nat}
    (he : ephemeralWrite (.write space i v) = false) : EphemeralClear (hostStore s space i v) := by
  unfold Machine.hostStore
  split
  case h_1 =>
    simp [ephemeralWrite] at he
    exact h.regWrite he.1 he.2 v
  case h_2 => exact { h with }
  case h_3 => exact { h with }
  case h_8 => exact h
  all_goals simp [ephemeralWrite] at he

/-! ## The step -/

/-- What a step keeps: the invariant, and rule R45 (b) whole if `he` rules out that the host writes an ephemeral bank
while the block is in ERROR. -/
structure Keeps (he : Prop) (s t : State) : Prop where
  inv : Inv t
  clear : ClearInError s → (s.status = .error → he) → ClearInError t

theorem WellEnded.keeps {t : State} (h : WellEnded t) (he : Prop) (s : State) : Keeps he s t := ⟨h.inv, fun _ _ => h.clear⟩

theorem Inv.keeps_self {s : State} (h : Inv s) (he : Prop) : Keeps he s s := ⟨h, fun hc _ => hc⟩

section
variable {s : State} (h : Inv s) (he : Prop)
include h

/-- A block left BUSY with an accepted word (log 1). -/
theorem busy_keeps (hs : s.status ≠ .error) (w : Word) : Keeps he s { s with status := .busy, running := some w } where
  inv := { h with busy := by simp, noError := fun _ => h.noError hs, error := nofun }
  clear := nofun

theorem start_keeps (hs : s.status ≠ .error) (hb : s.status ≠ .busy) (w : Word) :
    LeadsTo (Keeps he s) (start w { s with status := .busy }) := by
  have hrun := h.running_none hb
  have hex (es : List HostEvent) : Executing { s with status := .busy, port := es } := by
    simpa only [← hrun] using h.executing hs .busy es
  unfold start
  split
  · exact ((hex _).runWord w).imp fun t ht => ht.keeps he s
  · exact ((hex _).runWord w).imp fun t ht => ht.keeps he s
  all_goals exact .next (busy_keeps h he hs w)

theorem offer_keeps (w : Word) : LeadsTo (Keeps he s) (offer w s) := by
  unfold offer
  split
  case h_1 => exact .next (h.keeps_self he)
  case h_2 hs =>
    split
    · exact .next ((clearError_wellEnded h.memoriesOk (h.running_none (by simp [hs]))).keeps he s)
    · exact .next (h.keeps_self he)
  case h_3 hs => exact start_keeps h he (by simp [hs]) (by simp [hs]) w
  case h_4 hs => exact start_keeps h he (by simp [hs]) (by simp [hs]) w

theorem finish_keeps : LeadsTo (Keeps he s) (finish s) := by
  unfold finish
  split
  · next w hw =>
    have hb : s.status = .busy := h.busy.2 (by simp [hw])
    exact ((h.executing (by simp [hb]) s.status s.port).runWord w).imp fun t ht => ht.keeps he s
  · exact .next (h.keeps_self he)

theorem portRead_keeps (space i : Nat) : Keeps he s (portRead space i s) := by
  obtain ⟨d, n, hr⟩ := portRead_frame space i s
  rw [hr]
  exact ⟨{ h with }, fun hc _ hs => { hc hs with }⟩

theorem portStore_keeps (space i v : Nat) :
    Keeps (ephemeralWrite (.write space i v) = false) s (portStore space i v s) where
  inv := h.portStore space i v
  clear hc hw := by
    rw [portStore_eq]
    split
    · exact hc
    · intro hs
      rw [hostStore_status] at hs
      exact (hc hs).hostStore (hw hs)

theorem hostEvent_keeps (e : HostEvent) : LeadsTo (Keeps (ephemeralWrite e = false) s) (hostEvent e s) := by
  cases e with
  | read space i => exact .next (portRead_keeps h _ space i)
  | write space i v =>
    rw [hostEvent]
    split
    · exact offer_keeps h _ _
    · exact .next (portStore_keeps h space i v)
  | wait => exact finish_keeps h _
  | reset => exact .next ((hardwareReset_wellEnded h.memoriesOk).keeps _ s)

/-- Every step keeps the invariant, and rule R45 (b) whole unless it is a host write to an ephemeral bank in ERROR. -/
theorem step_keeps : LeadsTo (Keeps (∀ e, s.port.head? = some e → ephemeralWrite e = false) s) (step s) := by
  unfold step advance
  split
  · exact finish_keeps h _
  · next e rest hp =>
    refine (hostEvent_keeps (h.setPort rest) e).imp fun t ht => ⟨ht.inv, fun hc hw => ht.clear ?_ ?_⟩
    · exact fun hs => { hc hs with }
    · exact fun hs => hw hs e (by rw [hp]; rfl)

end

/-- Settles O59: by `step_keeps`, every host event and every command keeps the invariant. -/
theorem stepKeepsTheBlockInvariant : Obligations.StepKeepsTheBlockInvariant := by
  intro s t h hst
  have hk := step_keeps h t hst
  exact ⟨hk.inv, fun hc => hk.clear (fun hs => (hc hs).1) (fun hs => (hc hs).2)⟩

/-- Settles O60: after reset every ephemeral bank is clear, no error is recorded and no cell is determined. -/
theorem resetHasTheBlockInvariant : Obligations.ResetHasTheBlockInvariant := resetWith_inv

/-- Settles O10: every register by evaluation, the arrays by the element of a constant vector. -/
theorem resetStateHasTheReset49Values : Obligations.ResetStateHasTheReset49Values := by
  have hbanks (v : Fin 256) : State.reset.freq[v] = 0 ∧ State.reset.len[v] = 0 ∧ State.reset.tbl.len[v] = 0 ∧
      State.reset.tbl.code[v] = 0 := by
    simp [State.reset, State.resetWith, Table.zero]
  exact ⟨rfl, rfl, rfl, rfl, rfl, rfl, rfl, rfl, rfl, rfl, rfl, rfl, rfl, rfl, rfl, hbanks, rfl, rfl, rfl, rfl, rfl, rfl,
    rfl, rfl, rfl, rfl⟩

end Sys2Proof.Machine
end

section
/-! SUPPORT. Canonical codes (rules R150 to R157): where the codes of each length lie, that they fit, and that none is the
beginning of another. -/

namespace Sys2Proof.Machine

/-! ## Code lengths and first codes -/

theorem kraftSum_cons (l : Nat) (ls : List Nat) :
    kraftSum (l :: ls) = (if l = 0 then 0 else 2 ^ (255 - l)) + kraftSum ls := by
  simp [kraftSum]

theorem kraftSum_filter_cons (p : Nat → Bool) (l : Nat) (ls : List Nat) :
    kraftSum ((l :: ls).filter p) = (if p l then if l = 0 then 0 else 2 ^ (255 - l) else 0) + kraftSum (ls.filter p) := by
  by_cases h : p l <;> simp [h, kraftSum_cons]

theorem countLen_cons (k l : Nat) (ls : List Nat) :
    countLen (k :: ls) l = countLen ls l + if k = l ∧ l ≠ 0 then 1 else 0 := by
  by_cases hl : l = 0 <;> simp [countLen, hl, List.count_cons]

/-- The symbols shorter than `l + 1` are those shorter than `l` and those of length `l`. -/
theorem kraftSum_shorter_succ (ls : List Nat) (l : Nat) :
    kraftSum (ls.filter (· < l + 1)) = kraftSum (ls.filter (· < l)) + countLen ls l * 2 ^ (255 - l) := by
  induction ls with
  | nil => simp [countLen, kraftSum]
  | cons k ks ih =>
    rw [kraftSum_filter_cons, kraftSum_filter_cons, countLen_cons, ih, Nat.add_mul]
    rcases Nat.lt_trichotomy k l with h | rfl | h
    · rw [decide_eq_true (by omega : k < l + 1), decide_eq_true h, if_neg (by omega : ¬ (k = l ∧ l ≠ 0))]
      omega
    · rw [decide_eq_true (by omega : k < k + 1), decide_eq_false (by omega : ¬ k < k)]
      by_cases hk : k = 0
      · simp [hk]
      · simp [hk]; omega
    · rw [decide_eq_false (by omega : ¬ k < l + 1), decide_eq_false (by omega : ¬ k < l),
        if_neg (by omega : ¬ (k = l ∧ l ≠ 0))]
      simp

theorem kraftSum_filter_le (p : Nat → Bool) (ls : List Nat) : kraftSum (ls.filter p) ≤ kraftSum ls :=
  (List.filter_sublist.map _).sum_le_sum (by simp)

/-- `first[L]`, in units of `2^-255`, is the Kraft sum of the shorter symbols (rules R150, R152). -/
theorem firstCode_scaled (ls : List Nat) {l : Nat} (hl : l ≤ 255) :
    firstCode ls l * 2 ^ (255 - l) = kraftSum (ls.filter (· < l)) := by
  induction l with
  | zero => simp [firstCode, kraftSum]
  | succ l ih =>
    calc firstCode ls (l + 1) * 2 ^ (255 - (l + 1))
        = (firstCode ls l + countLen ls l) * 2 ^ (255 - (l + 1) + 1) := by rw [firstCode, pow_succ]; ring
      _ = firstCode ls l * 2 ^ (255 - l) + countLen ls l * 2 ^ (255 - l) := by
          rw [show 255 - (l + 1) + 1 = 255 - l by omega, Nat.add_mul]
      _ = kraftSum (ls.filter (· < l + 1)) := by rw [ih (by omega), kraftSum_shorter_succ]

/-- The codes of every length have room (rule R152). -/
theorem firstCode_add_countLen_le {ls : List Nat} (hk : kraftSum ls ≤ 2 ^ 255) {l : Nat} (hl : l ≤ 255) :
    firstCode ls l + countLen ls l ≤ 2 ^ l := by
  have hpos : 0 < 2 ^ (255 - l) := Nat.two_pow_pos _
  refine Nat.le_of_mul_le_mul_right ?_ hpos
  calc (firstCode ls l + countLen ls l) * 2 ^ (255 - l)
      = kraftSum (ls.filter (· < l + 1)) := by rw [Nat.add_mul, firstCode_scaled ls hl, kraftSum_shorter_succ]
    _ ≤ 2 ^ 255 := (kraftSum_filter_le _ ls).trans hk
    _ = 2 ^ l * 2 ^ (255 - l) := by rw [← pow_add, Nat.add_sub_cancel' hl]

/-- The codes of a length end before the first code of a greater length begins. -/
theorem firstCode_add_countLen_scaled_le (ls : List Nat) (l d : Nat) :
    (firstCode ls l + countLen ls l) * 2 ^ (d + 1) ≤ firstCode ls (l + d + 1) := by
  induction d with
  | zero => simp [firstCode]
  | succ d ih =>
    calc (firstCode ls l + countLen ls l) * 2 ^ (d + 1 + 1)
        = (firstCode ls l + countLen ls l) * 2 ^ (d + 1) * 2 := by rw [pow_succ, Nat.mul_assoc]
      _ ≤ (firstCode ls (l + d + 1) + countLen ls (l + d + 1)) * 2 := by omega
      _ = firstCode ls (l + (d + 1) + 1) := rfl

/-! ## The code of a symbol -/

/-- The code of a used symbol: `first[L]` and its rank among the symbols of its length (rule R153). -/
theorem codeOf_used {ls : List Nat} {s l : Nat} (hs : ls[s]? = some l) (hl : l ≠ 0) :
    codeOf ls s = firstCode ls l + (ls.take s).count l := by
  simp [codeOf, List.getD_eq_getElem?_getD, hs, hl]

/-- A symbol itself is counted behind it. -/
theorem count_take_lt {ls : List Nat} {s n l : Nat} (hs : ls[s]? = some l) (hn : s < n) :
    (ls.take s).count l < (ls.take n).count l := by
  have hstep : (ls.take (s + 1)).count l = (ls.take s).count l + 1 := by
    rw [List.take_add_one, hs, List.count_append]; simp
  have hmono : (ls.take (s + 1)).count l ≤ (ls.take n).count l :=
    (List.take_sublist_take_left hn).count_le l
  omega

theorem codeOf_lt_firstCode_add {ls : List Nat} {s l : Nat} (hs : ls[s]? = some l) (hl : l ≠ 0) :
    codeOf ls s < firstCode ls l + countLen ls l := by
  have hlt : s < ls.length := (List.getElem?_eq_some_iff.1 hs).1
  have hrank := count_take_lt hs hlt
  rw [List.take_length] at hrank
  rw [codeOf_used hs hl, countLen, if_neg hl]
  omega

/-- Every code fits its length (rule R156). -/
theorem codeOf_lt_two_pow {ls : List Nat} (hk : kraftSum ls ≤ 2 ^ 255) {s l : Nat} (hs : ls[s]? = some l) (hl : l ≠ 0)
    (hmax : l ≤ 255) : codeOf ls s < 2 ^ l :=
  (codeOf_lt_firstCode_add hs hl).trans_le (firstCode_add_countLen_le hk hmax)

/-- Symbols of one length have different codes. -/
theorem codeOf_lt_codeOf {ls : List Nat} {u v l : Nat} (hu : ls[u]? = some l) (hv : ls[v]? = some l) (hl : l ≠ 0)
    (huv : u < v) : codeOf ls u < codeOf ls v := by
  rw [codeOf_used hu hl, codeOf_used hv hl]
  exact Nat.add_lt_add_left (count_take_lt hu huv) _

/-- No code is the upper part of the code of another symbol, of the same length or longer (rule R157). -/
theorem codeOf_ne_div {ls : List Nat} {u v k l : Nat} (hu : ls[u]? = some k) (hv : ls[v]? = some l) (hk : k ≠ 0) (hl : l ≠ 0)
    (hkl : k ≤ l) (huv : u ≠ v) : codeOf ls u ≠ codeOf ls v / 2 ^ (l - k) := by
  rcases hkl.eq_or_lt with rfl | hlt
  · rw [Nat.sub_self, pow_zero, Nat.div_one]
    rcases Nat.lt_or_gt_of_ne huv with h | h
    · exact (codeOf_lt_codeOf hu hv hk h).ne
    · exact (codeOf_lt_codeOf hv hu hk h).ne'
  · obtain ⟨d, rfl⟩ : ∃ d, l = k + d + 1 := ⟨l - k - 1, by omega⟩
    have hstart : firstCode ls (k + d + 1) ≤ codeOf ls v := codeOf_used hv hl ▸ Nat.le_add_right _ _
    have hgap : (codeOf ls u + 1) * 2 ^ (d + 1) ≤ codeOf ls v :=
      calc (codeOf ls u + 1) * 2 ^ (d + 1)
          ≤ (firstCode ls k + countLen ls k) * 2 ^ (d + 1) := Nat.mul_le_mul_right _ (codeOf_lt_firstCode_add hu hk)
        _ ≤ codeOf ls v := (firstCode_add_countLen_scaled_le ls k d).trans hstart
    rw [show k + d + 1 - k = d + 1 by omega]
    exact Nat.ne_of_lt ((Nat.le_div_iff_mul_le (Nat.two_pow_pos _)).2 hgap)

/-! ## Codes as bit sequences -/

@[simp] theorem codeBits_length (code len : Nat) : (codeBits code len).length = len := by simp [codeBits]

/-- A beginning of a code's bits is the upper part of the code. -/
theorem eq_div_of_codeBits_prefix {c d k l : Nat} (hc : c < 2 ^ k) (hd : d < 2 ^ l) (h : codeBits c k <+: codeBits d l) :
    k ≤ l ∧ c = d / 2 ^ (l - k) := by
  have hkl : k ≤ l := by simpa using h.length_le
  refine ⟨hkl, Nat.eq_of_testBit_eq fun i => ?_⟩
  rw [Nat.testBit_div_two_pow]
  by_cases hi : i < k
  · have hbit := h.getElem (i := k - 1 - i) (by simp; omega)
    simp only [codeBits, List.getElem_map, List.getElem_range] at hbit
    rwa [show k - 1 - (k - 1 - i) = i by omega, show l - 1 - (k - 1 - i) = i + (l - k) by omega] at hbit
  · rw [Nat.testBit_lt_two_pow (hc.trans_le (Nat.pow_le_pow_right (by omega) (by omega))),
      Nat.testBit_lt_two_pow (hd.trans_le (Nat.pow_le_pow_right (by omega) (by omega)))]

theorem lengthList_getElem? (len : Vector (BitVec 8) 256) (v : Byte) : (lengthList len)[v.toNat]? = some len[v.toNat].toNat := by
  simp [lengthList, v.isLt]

section
variable {len : Vector (BitVec 8) 256} {u v : Byte}

theorem length_toNat_ne_zero (hv : len[v.toNat] ≠ 0) : len[v.toNat].toNat ≠ 0 := by
  simpa [BitVec.toNat_eq] using hv

theorem codeOf_symbol_lt (hk : KraftValid len) (hv : len[v.toNat] ≠ 0) :
    codeOf (lengthList len) v.toNat < 2 ^ len[v.toNat].toNat :=
  codeOf_lt_two_pow hk (lengthList_getElem? len v) (length_toNat_ne_zero hv) (Nat.le_of_lt_succ len[v.toNat].isLt)

/-- No bit of a code is lost in its register (rule R156). -/
theorem canonicalTable_code (hk : KraftValid len) (hv : len[v.toNat] ≠ 0) :
    (canonicalTable len).code[v.toNat].toNat = codeOf (lengthList len) v.toNat := by
  have hfit : codeOf (lengthList len) v.toNat < 2 ^ 255 :=
    (codeOf_symbol_lt hk hv).trans_le (Nat.pow_le_pow_right (by omega) (Nat.le_of_lt_succ len[v.toNat].isLt))
  simp only [canonicalTable, Vector.getElem_ofFn, BitVec.toNat_ofNat, Nat.mod_eq_of_lt hfit]

/-- The bits of a symbol are those of its code register. -/
theorem symbolBits_eq_codeBits (tbl : Table) (v : Byte) :
    symbolBits tbl v = codeBits tbl.code[v.toNat].toNat tbl.len[v.toNat].toNat := rfl

@[simp] theorem symbolBits_length (tbl : Table) (v : Byte) : (symbolBits tbl v).length = tbl.len[v.toNat].toNat := by
  rw [symbolBits_eq_codeBits, codeBits_length]

/-- A code that begins another is that code (rule R157). -/
theorem symbolBits_prefix (hk : KraftValid len) (hu : len[u.toNat] ≠ 0) (hv : len[v.toNat] ≠ 0)
    (h : symbolBits (canonicalTable len) u <+: symbolBits (canonicalTable len) v) : u = v := by
  rw [symbolBits_eq_codeBits, symbolBits_eq_codeBits, canonicalTable_code hk hu, canonicalTable_code hk hv] at h
  obtain ⟨hle, hdiv⟩ := eq_div_of_codeBits_prefix (codeOf_symbol_lt hk hu) (codeOf_symbol_lt hk hv) h
  by_contra hne
  exact codeOf_ne_div (lengthList_getElem? len u) (lengthList_getElem? len v) (length_toNat_ne_zero hu)
    (length_toNat_ne_zero hv) hle (fun e => hne (BitVec.eq_of_toNat_eq e)) hdiv

end

end Sys2Proof.Machine
end

section
/-! SUPPORT. Tries as sets of paths (rules R176 to R178): the path of bits that leads to each node determines every edge, and
an insertion adds the beginnings of the inserted code. -/

namespace Sys2Proof.Machine

/-! ## Nodes -/

@[simp] theorem TrieNode.fresh_child (b : Bool) : TrieNode.fresh.child b = ABSENT := by cases b <;> rfl

@[simp] theorem TrieNode.fresh_sym : TrieNode.fresh.sym = NONE := rfl

theorem TrieNode.withChild_child (n : TrieNode) (b b' : Bool) (i : BitVec 16) :
    (n.withChild b i).child b' = if b' = b then i else n.child b' := by
  cases b <;> cases b' <;> rfl

@[simp] theorem TrieNode.withChild_sym (n : TrieNode) (b : Bool) (i : BitVec 16) : (n.withChild b i).sym = n.sym := by
  cases b <;> rfl

@[simp] theorem TrieNode.mark_child (n : TrieNode) (v : BitVec 9) (b : Bool) : { n with sym := v }.child b = n.child b := rfl

/-- Reading a node after a node was replaced. -/
theorem trieNode_set (t : List TrieNode) {i : Nat} (hi : i < t.length) (n : TrieNode) (j : Nat) :
    trieNode (t.set i n) j = if j = i then n else trieNode t j := by
  unfold trieNode
  by_cases h : j = i
  · subst h; simp [hi]
  · simp [h, List.getElem?_set_ne (Ne.symm h)]

/-- A fresh node appended reads as the out of range node did (log 6). -/
@[simp] theorem trieNode_concat_fresh (t : List TrieNode) (j : Nat) : trieNode (t ++ [TrieNode.fresh]) j = trieNode t j := by
  unfold trieNode
  rcases Nat.lt_trichotomy j t.length with h | rfl | h
  · simp [List.getElem?_append_left h]
  · simp
  · simp [List.getElem?_eq_none (Nat.le_of_lt h), List.getElem?_eq_none (l := t ++ [TrieNode.fresh]) (by simpa using h)]

/-- A node marked with a symbol (rule R177, last line). -/
def markNode (t : List TrieNode) (node : Nat) (v : BitVec 9) : List TrieNode :=
  t.set node { trieNode t node with sym := v }

/-- A new node, made the child of a node on a bit (rule R177). -/
def growNode (t : List TrieNode) (node : Nat) (b : Bool) : List TrieNode :=
  (t ++ [TrieNode.fresh]).set node ((trieNode t node).withChild b (BitVec.ofNat 16 t.length))

theorem trieInsert_nil (node : Nat) (v : BitVec 9) (t : List TrieNode) : trieInsert [] node v t = markNode t node v := rfl

theorem trieInsert_cons (b : Bool) (bs : List Bool) (node : Nat) (v : BitVec 9) (t : List TrieNode) :
    trieInsert (b :: bs) node v t =
      if (trieNode t node).child b = ABSENT then trieInsert bs t.length v (growNode t node b)
      else trieInsert bs ((trieNode t node).child b).toNat v t := rfl

@[simp] theorem markNode_length (t : List TrieNode) (node : Nat) (v : BitVec 9) : (markNode t node v).length = t.length :=
  List.length_set

@[simp] theorem growNode_length (t : List TrieNode) (node : Nat) (b : Bool) : (growNode t node b).length = t.length + 1 := by
  simp [growNode]

section
variable {t : List TrieNode} {node : Nat} (hn : node < t.length)
include hn

theorem markNode_child (v : BitVec 9) (i : Nat) (b : Bool) :
    (trieNode (markNode t node v) i).child b = (trieNode t i).child b := by
  rw [markNode, trieNode_set t hn]
  split
  · next hi => rw [TrieNode.mark_child, hi]
  · rfl

theorem markNode_sym (v : BitVec 9) (i : Nat) :
    (trieNode (markNode t node v) i).sym = if i = node then v else (trieNode t i).sym := by
  rw [markNode, trieNode_set t hn]
  split <;> rfl

theorem growNode_child (b : Bool) (i : Nat) (c : Bool) :
    (trieNode (growNode t node b) i).child c =
      if i = node ∧ c = b then BitVec.ofNat 16 t.length else (trieNode t i).child c := by
  rw [growNode, trieNode_set _ (by simp; omega), trieNode_concat_fresh]
  by_cases hi : i = node <;> simp [hi, TrieNode.withChild_child]

theorem growNode_sym (b : Bool) (i : Nat) : (trieNode (growNode t node b) i).sym = (trieNode t i).sym := by
  rw [growNode, trieNode_set _ (by simp; omega), trieNode_concat_fresh]
  split
  · next hi => rw [TrieNode.withChild_sym, hi]
  · rfl

end

/-- Reading a list with one element behind it. -/
theorem getElem?_concat_eq_some {α : Type} {l : List α} {a b : α} {i : Nat} :
    (l ++ [a])[i]? = some b ↔ l[i]? = some b ∨ (i = l.length ∧ b = a) := by
  rcases Nat.lt_trichotomy i l.length with h | rfl | h
  · simp [List.getElem?_append_left h, h.ne]
  · simp [eq_comm]
  · simp [h.ne', List.getElem?_eq_none (Nat.le_of_lt h), List.getElem?_eq_none (l := l ++ [a]) (by simpa using h)]

/-! ## The paths of a trie -/

/-- Node `i` of the trie is reached from the root by the bits `paths[i]`: the paths are different and closed under
beginnings, an edge leads to the longer path exactly where that is a path, and each node carries the mark of its path. -/
structure Spells (t : List TrieNode) (paths : List (List Bool)) (mark : List Bool → BitVec 9) : Prop where
  length : paths.length = t.length
  root : paths[0]? = some []
  nodup : paths.Nodup
  closed : ∀ {q b}, q ++ [b] ∈ paths → q ∈ paths
  edge : ∀ {i q b}, paths[i]? = some q → q ++ [b] ∈ paths → paths[((trieNode t i).child b).toNat]? = some (q ++ [b])
  noEdge : ∀ {i q b}, paths[i]? = some q → q ++ [b] ∉ paths → (trieNode t i).child b = ABSENT
  sym : ∀ {i q}, paths[i]? = some q → (trieNode t i).sym = mark q
  marked : ∀ {q}, mark q ≠ NONE → q ∈ paths

namespace Spells
variable {t : List TrieNode} {paths : List (List Bool)} {mark : List Bool → BitVec 9} {node : Nat} {p : List Bool}

theorem lt_length (h : Spells t paths mark) (hp : paths[node]? = some p) : node < t.length :=
  h.length ▸ (List.getElem?_eq_some_iff.1 hp).1

/-- A path belongs to one node. -/
theorem node_unique (h : Spells t paths mark) {i : Nat} (hi : paths[i]? = some p) (hn : paths[node]? = some p) : i = node :=
  (List.getElem?_inj (h.length ▸ h.lt_length hi) h.nodup).1 (hi.trans hn.symm)

/-- Every beginning of a path is a path. -/
theorem prefix_mem (h : Spells t paths mark) {q : List Bool} (hq : q <+: p) (hp : p ∈ paths) : q ∈ paths := by
  obtain ⟨r, rfl⟩ := hq
  induction r using List.reverseRecOn with
  | nil => simpa using hp
  | append_singleton r b ih => exact ih (h.closed (by simpa using hp))

/-- The root alone (rule R178). -/
theorem rootAlone : Spells [TrieNode.fresh] [[]] (fun _ => NONE) where
  length := rfl
  root := rfl
  nodup := by simp
  closed := by simp
  edge := by simp
  noEdge {i q b} hi _ := by
    have : i < 1 := (List.getElem?_eq_some_iff.1 hi).1
    obtain rfl : i = 0 := by omega
    exact TrieNode.fresh_child b
  sym {i q} hi := by
    have : i < 1 := (List.getElem?_eq_some_iff.1 hi).1
    obtain rfl : i = 0 := by omega
    rfl
  marked h := absurd rfl h

/-- Marking the node of a path. -/
theorem markNode (h : Spells t paths mark) (hn : paths[node]? = some p) (v : BitVec 9) :
    Spells (markNode t node v) paths (Function.update mark p v) where
  length := by rw [markNode_length, h.length]
  root := h.root
  nodup := h.nodup
  closed := h.closed
  edge hi hq := by rw [markNode_child (h.lt_length hn)]; exact h.edge hi hq
  noEdge hi hq := by rw [markNode_child (h.lt_length hn)]; exact h.noEdge hi hq
  sym {i q} hi := by
    rw [markNode_sym (h.lt_length hn)]
    by_cases hin : i = node
    · obtain rfl : q = p := Option.some.inj (hi.symm.trans (hin ▸ hn))
      rw [if_pos hin, Function.update_self]
    · have hqp : q ≠ p := fun e => hin (h.node_unique (e ▸ hi) hn)
      rw [if_neg hin, Function.update_of_ne hqp, h.sym hi]
  marked {q} hq := by
    by_cases hqp : q = p
    · exact hqp ▸ List.mem_of_getElem? hn
    · rw [Function.update_of_ne hqp] at hq
      exact h.marked hq

/-- Adding an absent child of a node: its path is the one new path. -/
theorem growNode (h : Spells t paths mark) (hn : paths[node]? = some p) {b : Bool} (hb : p ++ [b] ∉ paths)
    (hsize : t.length < 65535) : Spells (growNode t node b) (paths ++ [p ++ [b]]) mark := by
  have hlt := h.lt_length hn
  have hnodup : (paths ++ [p ++ [b]]).Nodup := by simpa using h.nodup.concat hb
  have hn' : (paths ++ [p ++ [b]])[node]? = some p := getElem?_concat_eq_some.2 (.inl hn)
  have hnew {i : Nat} {q : List Bool} {c : Bool} (hi : (paths ++ [p ++ [b]])[i]? = some q) :
      i = node ∧ c = b ↔ q ++ [c] = p ++ [b] := by
    have hiq : i = node ↔ q = p :=
      ⟨fun e => Option.some.inj (hi.symm.trans (e ▸ hn')),
        fun e => (List.getElem?_inj (List.getElem?_eq_some_iff.1 hi).1 hnodup).1 (hi.trans (e ▸ hn'.symm))⟩
    simp [hiq]
  have hfresh : trieNode t paths.length = TrieNode.fresh := by simp [trieNode, h.length]
  refine
    { length := by simp [h.length]
      root := getElem?_concat_eq_some.2 (.inl h.root)
      nodup := hnodup
      closed := fun {q c} hq => List.mem_append_left _ ?_
      edge := fun {i q c} hi hq => ?_
      noEdge := fun {i q c} hi hq => ?_
      sym := fun {i q} hi => ?_
      marked := fun hq => List.mem_append_left _ (h.marked hq) }
  · rcases List.mem_append.1 hq with hq | hq
    · exact h.closed hq
    · obtain ⟨rfl, -⟩ := List.append_inj' (List.mem_singleton.1 hq) rfl
      exact List.mem_of_getElem? hn
  · rw [growNode_child hlt, getElem?_concat_eq_some]
    by_cases hw : q ++ [c] = p ++ [b]
    · right
      rw [if_pos ((hnew hi).2 hw), BitVec.toNat_ofNat, h.length]
      exact ⟨Nat.mod_eq_of_lt (by omega), hw⟩
    · have hold : q ++ [c] ∈ paths := (List.mem_append.1 hq).resolve_right (by simpa using hw)
      rw [if_neg (mt (hnew hi).1 hw)]
      rcases getElem?_concat_eq_some.1 hi with hi | ⟨-, rfl⟩
      · exact .inl (h.edge hi hold)
      · exact absurd (h.closed hold) hb
  · rw [List.mem_append, List.mem_singleton, not_or] at hq
    rw [growNode_child hlt, if_neg (mt (hnew hi).1 hq.2)]
    rcases getElem?_concat_eq_some.1 hi with hi | ⟨rfl, -⟩
    · exact h.noEdge hi hq.1
    · rw [hfresh, TrieNode.fresh_child]
  · rw [growNode_sym hlt]
    rcases getElem?_concat_eq_some.1 hi with hi | ⟨rfl, rfl⟩
    · exact h.sym hi
    · rw [hfresh, TrieNode.fresh_sym]
      exact (not_not.1 fun hm => hb (h.marked hm)).symm

/-- The absent child is the sentinel, which is no index (rule R182). -/
theorem child_absent_iff (h : Spells t paths mark) (hsize : t.length ≤ 65535) (hn : paths[node]? = some p) (b : Bool) :
    (trieNode t node).child b = ABSENT ↔ p ++ [b] ∉ paths := by
  refine ⟨fun habs hmem => ?_, h.noEdge hn⟩
  have hlt := h.lt_length (h.edge hn hmem)
  rw [habs, show ABSENT.toNat = 65535 from rfl] at hlt
  omega

/-- An insertion adds the beginnings of the inserted path, at most one node for each bit, and marks its end (rules R177,
R182). -/
theorem trieInsert (h : Spells t paths mark) (hn : paths[node]? = some p) (bs : List Bool) (v : BitVec 9)
    (hsize : t.length + bs.length ≤ 65535) :
    ∃ paths', Spells (trieInsert bs node v t) paths' (Function.update mark (p ++ bs) v) ∧
      (∀ q, q ∈ paths' ↔ q ∈ paths ∨ q <+: p ++ bs) ∧ paths'.length ≤ paths.length + bs.length := by
  induction bs generalizing node p t paths with
  | nil =>
    rw [List.append_nil, trieInsert_nil]
    refine ⟨paths, h.markNode hn v, fun q => ?_, by simp⟩
    exact ⟨.inl, fun hq => hq.elim id fun hp => h.prefix_mem hp (List.mem_of_getElem? hn)⟩
  | cons b bs ih =>
    rw [List.length_cons] at hsize
    have habs := h.child_absent_iff (by omega) hn b
    rw [List.append_cons, trieInsert_cons]
    split
    · next hb =>
      have hlast : (paths ++ [p ++ [b]])[t.length]? = some (p ++ [b]) :=
        getElem?_concat_eq_some.2 (.inr ⟨h.length.symm, rfl⟩)
      obtain ⟨paths', h', hmem, hlen⟩ := ih (h.growNode hn (habs.1 hb) (by omega)) hlast (by simp; omega)
      refine ⟨paths', h', fun q => ?_, by simp at hlen ⊢; omega⟩
      rw [hmem, List.mem_append, List.mem_singleton, or_assoc]
      exact or_congr_right (or_iff_right_of_imp fun e => e ▸ List.prefix_append _ _)
    · next hb =>
      have hin : p ++ [b] ∈ paths := not_not.1 fun hni => hb (habs.2 hni)
      obtain ⟨paths', h', hmem, hlen⟩ := ih h (h.edge hn hin) (by omega)
      exact ⟨paths', h', hmem, by rw [List.length_cons]; omega⟩

/-! ## The invariants of rule R39 -/

theorem exists_path (h : Spells t paths mark) (hn : node < t.length) : ∃ q, paths[node]? = some q :=
  ⟨_, List.getElem?_eq_getElem (h.length ▸ hn)⟩

/-- Every node but the root has a longer path than the root. -/
theorem path_ne_nil (h : Spells t paths mark) (h0 : 0 < node) (hn : paths[node]? = some p) : p ≠ [] := fun e =>
  h0.ne' (h.node_unique (e ▸ hn) h.root)

/-- A child index in range leads to the longer path. -/
theorem getElem?_child (h : Spells t paths mark) (hsize : t.length ≤ 65535) (hn : paths[node]? = some p) {b : Bool}
    (hlt : ((trieNode t node).child b).toNat < t.length) : paths[((trieNode t node).child b).toNat]? = some (p ++ [b]) := by
  refine h.edge hn (not_not.1 fun hni => ?_)
  rw [h.noEdge hn hni, show ABSENT.toNat = 65535 from rfl] at hlt
  omega

/-- The parent of a node has its path but for the last bit, and only one node has that path. -/
theorem exists_unique_parent (h : Spells t paths mark) (hsize : t.length ≤ 65535) {j : Nat} (h0 : 0 < j)
    (hj : j < t.length) :
    ∃ i b, (i < t.length ∧ ((trieNode t i).child b).toNat = j) ∧
      ∀ i' b', i' < t.length → ((trieNode t i').child b').toNat = j → i' = i ∧ b' = b := by
  obtain ⟨w, hw⟩ := h.exists_path hj
  obtain ⟨q, b, rfl⟩ := w.eq_nil_or_concat'.resolve_left (h.path_ne_nil h0 hw)
  obtain ⟨i, hi⟩ := List.mem_iff_getElem?.1 (h.closed (List.mem_of_getElem? hw))
  refine ⟨i, b, ⟨h.lt_length hi, h.node_unique (h.edge hi (List.mem_of_getElem? hw)) hw⟩, ?_⟩
  rintro i' b' hi' rfl
  obtain ⟨q', hq'⟩ := h.exists_path hi'
  obtain ⟨rfl, hbb⟩ := List.append_inj' (Option.some.inj ((h.getElem?_child hsize hq' hj).symm.trans hw)) rfl
  exact ⟨h.node_unique hq' hi, by simpa using hbb⟩

/-- The invariants of the bank, when the marks are symbols and stand exactly where no path goes on. -/
theorem trieShape (h : Spells t paths mark) (hsize : t.length ≤ 65281)
    (hleaf : ∀ q, mark q ≠ NONE → (mark q).toNat < 256 ∧ ∀ b, q ++ [b] ∉ paths)
    (hinner : ∀ q ∈ paths, q ≠ [] → mark q = NONE → ∃ b, q ++ [b] ∈ paths) : Claims.TrieShape t := by
  have hfits : t.length ≤ 65535 := hsize.trans (by decide)
  have hroot : 0 < t.length := h.lt_length h.root
  refine ⟨⟨hroot, hsize⟩, ?_, fun j => h.exists_unique_parent hfits, ?_, ?_, ?_⟩
  · intro i b hi hb
    obtain ⟨q, hq⟩ := h.exists_path hi
    exact h.lt_length (h.edge hq (not_not.1 fun hni => hb (h.noEdge hq hni)))
  · intro i b hi h0
    obtain ⟨q, hq⟩ := h.exists_path hi
    have hw := h.getElem?_child hfits hq (h0 ▸ hroot)
    rw [h0, h.root] at hw
    simp at hw
  · intro i hi hs
    obtain ⟨q, hq⟩ := h.exists_path hi
    rw [h.sym hq] at hs ⊢
    obtain ⟨hlt, hno⟩ := hleaf q hs
    exact ⟨hlt, h.noEdge (b := false) hq (hno false), h.noEdge (b := true) hq (hno true)⟩
  · intro i h0 hi hs
    obtain ⟨q, hq⟩ := h.exists_path hi
    obtain ⟨b, hb⟩ := hinner q (List.mem_of_getElem? hq) (h.path_ne_nil h0 hq) (h.sym hq ▸ hs)
    have hc : (trieNode t i).child b ≠ ABSENT := fun e => (h.child_absent_iff hfits hq b).1 e hb
    cases b
    · exact .inl hc
    · exact .inr hc

end Spells

end Sys2Proof.Machine
end

section
/-! SUPPORT. The trie of a table: its paths are the beginnings of the codes, its marks stand at their ends (rules R178, R182,
R184). -/

namespace Sys2Proof.Machine

/-- The symbols in ascending order (rule R178). -/
def symbols : List Byte := (List.finRange 256).map BitVec.ofFin

theorem mem_symbols (v : Byte) : v ∈ symbols := List.mem_map.2 ⟨v.toFin, List.mem_finRange _, rfl⟩

@[simp] theorem symbols_length : symbols.length = 256 := by simp [symbols]

/-- `TrieInsert(s)` of a table's symbol (rule R177). -/
def insertOf (tbl : Table) (t : List TrieNode) (v : Byte) : List TrieNode :=
  insertSymbol t v.toNat tbl.len[v.toNat] tbl.code[v.toNat]

theorem trieOf_eq_foldl_symbols (tbl : Table) : trieOf tbl = symbols.foldl (insertOf tbl) [TrieNode.fresh] := by
  have hentries : (tbl.len.toList.zip tbl.code.toList).zipIdx =
      (List.finRange 256).map fun v => ((tbl.len[v], tbl.code[v]), v.val) := by
    apply List.ext_getElem
    · simp
    · intro i h1 h2
      simp
  rw [trieOf, hentries, symbols, List.foldl_map, List.foldl_map]
  rfl

/-- A trie that holds the codes of the listed symbols. -/
structure HoldsCodes (tbl : Table) (vs : List Byte) (t : List TrieNode) (paths : List (List Bool))
    (mark : List Bool → BitVec 9) : Prop extends Spells t paths mark where
  mem : ∀ q, q ∈ paths ↔ q = [] ∨ ∃ v ∈ vs, tbl.len[v.toNat] ≠ 0 ∧ q <+: symbolBits tbl v
  markOf : ∀ q, mark q ≠ NONE → ∃ v ∈ vs, tbl.len[v.toNat] ≠ 0 ∧ q = symbolBits tbl v ∧ mark q = BitVec.ofNat 9 v.toNat
  ends : ∀ v ∈ vs, tbl.len[v.toNat] ≠ 0 → mark (symbolBits tbl v) ≠ NONE
  size : paths.length ≤ 1 + 255 * vs.length

/-- The number of a symbol as a mark: below 256, so it is not `NONE` (rule R176). -/
theorem symbolMark_toNat (v : Byte) : (BitVec.ofNat 9 v.toNat).toNat = v.toNat := by
  have := v.isLt
  rw [BitVec.toNat_ofNat]; omega

theorem symbolMark_ne_none (v : Byte) : BitVec.ofNat 9 v.toNat ≠ NONE := fun e => by
  have hv := v.isLt
  have := congrArg BitVec.toNat e
  rw [symbolMark_toNat, show NONE.toNat = 256 from rfl] at this
  omega

namespace HoldsCodes
variable {tbl : Table} {vs : List Byte} {t : List TrieNode} {paths : List (List Bool)} {mark : List Bool → BitVec 9}

/-- Inserting one more symbol; an unused one is passed over. -/
theorem insertOf (h : HoldsCodes tbl vs t paths mark) (v : Byte) (hvs : vs.length < 256) :
    ∃ paths' mark', HoldsCodes tbl (vs ++ [v]) (insertOf tbl t v) paths' mark' := by
  have hsize := h.size
  unfold Machine.insertOf insertSymbol
  split
  · next hu =>
    refine ⟨paths, mark, { h.toSpells with mem := ?_, markOf := ?_, ends := ?_, size := by simp; omega }⟩
    · simpa [hu, or_and_right, exists_or] using h.mem
    · simpa [hu, or_and_right, exists_or] using h.markOf
    · simpa [hu, or_imp, forall_and] using h.ends
  · next hu =>
    have hlen : (symbolBits tbl v).length ≤ 255 := by
      rw [symbolBits_length]; exact Nat.le_of_lt_succ tbl.len[v.toNat].isLt
    obtain ⟨paths', h', hmem, hlen'⟩ :=
      h.toSpells.trieInsert h.root (symbolBits tbl v) (BitVec.ofNat 9 v.toNat) (by rw [← h.length]; omega)
    rw [List.nil_append] at h' hmem
    refine ⟨paths', _, { h' with mem := ?_, markOf := ?_, ends := ?_, size := by simp; omega }⟩
    · intro q
      rw [hmem, h.mem]
      simp only [List.mem_append, List.mem_singleton, or_and_right, exists_or, exists_eq_left, or_assoc, ne_eq, hu,
        not_false_eq_true, true_and]
    · intro q hq
      by_cases hqv : q = symbolBits tbl v
      · exact ⟨v, by simp, hu, hqv, by rw [hqv, Function.update_self]⟩
      · rw [Function.update_of_ne hqv] at hq ⊢
        obtain ⟨u, hum, hu'⟩ := h.markOf q hq
        exact ⟨u, List.mem_append_left _ hum, hu'⟩
    · intro u hum hu'
      by_cases huv : symbolBits tbl u = symbolBits tbl v
      · rw [huv, Function.update_self]; exact symbolMark_ne_none v
      · rw [Function.update_of_ne huv]
        rcases List.mem_append.1 hum with hum | hum
        · exact h.ends u hum hu'
        · exact absurd (by rw [List.mem_singleton.1 hum]) huv

theorem foldl_insertOf (tbl : Table) (vs : List Byte) (hvs : vs.length ≤ 256) :
    ∃ paths mark, HoldsCodes tbl vs (vs.foldl (Machine.insertOf tbl) [TrieNode.fresh]) paths mark := by
  induction vs using List.reverseRecOn with
  | nil => exact ⟨_, _, { Spells.rootAlone with mem := by simp, markOf := by simp, ends := by simp, size := by simp }⟩
  | append_singleton vs v ih =>
    rw [List.length_append, List.length_singleton] at hvs
    obtain ⟨paths, mark, h⟩ := ih (by omega)
    rw [List.foldl_append]
    exact h.insertOf v (by omega)

end HoldsCodes

/-- The trie of a table holds the codes of all symbols. -/
theorem trieOf_holdsCodes (tbl : Table) : ∃ paths mark, HoldsCodes tbl symbols (trieOf tbl) paths mark := by
  rw [trieOf_eq_foldl_symbols]
  exact HoldsCodes.foldl_insertOf tbl symbols (by simp)

/-- Settles O43: the paths of the trie are the beginnings of the codes, and no code begins another. -/
theorem trieOfValidTableIsWellShaped : Obligations.TrieOfValidTableIsWellShaped := by
  intro len hk
  obtain ⟨paths, mark, h⟩ := trieOf_holdsCodes (canonicalTable len)
  have hsize := h.size
  rw [h.length, symbols_length] at hsize
  refine h.trieShape (by omega) (fun q hq => ?_) fun q hq hne hnone => ?_
  · obtain ⟨v, -, hv, rfl, hm⟩ := h.markOf q hq
    refine ⟨by rw [hm, symbolMark_toNat]; exact v.isLt, fun b hb => ?_⟩
    obtain ⟨u, -, hu, hpre⟩ := ((h.mem _).1 hb).resolve_left (by simp)
    obtain rfl := symbolBits_prefix hk hv hu ((List.prefix_append _ _).trans hpre)
    simpa using hpre.length_le
  · obtain ⟨v, hmem, hv, r, hr⟩ := ((h.mem q).1 hq).resolve_left hne
    cases r with
    | nil => exact absurd hnone (by rw [← List.append_nil q, hr]; exact h.ends v hmem hv)
    | cons b r => exact ⟨b, (h.mem _).2 (.inr ⟨v, hmem, hv, r, by simpa using hr⟩)⟩

end Sys2Proof.Machine
end

section
/-! SUPPORT. The elements of the host port (rules R42, R43, R64 to R66): what a store into a register, a byte memory or a
register array leaves, and which element a host read sees changed. -/

namespace Sys2Proof.Machine

open Claims (elementWidth writableWidth isRegister)

/-! ## Byte memories -/

theorem memRead_eq (cap : Option Nat) (m : Memory) (i : Nat) :
    memRead cap m i = if overCap cap (i + 1) then 0 else (m.read i).toNat := by
  cases h : overCap cap (i + 1) <;> simp [memRead, inCap, h]

/-- A byte memory's element has a width exactly when its index is in range. -/
theorem byteWidth_eq_some {cap : Option Nat} {i n : Nat} :
    (if overCap cap (i + 1) then none else some 8) = some n ↔ inCap cap i = true ∧ n = 8 := by
  cases h : overCap cap (i + 1) <;> simp [inCap, h, eq_comm]

theorem byteWidth_eq_none {cap : Option Nat} {i : Nat} :
    (if overCap cap (i + 1) then none else some 8) = (none : Option Nat) ↔ inCap cap i = false := by
  cases h : overCap cap (i + 1) <;> simp [inCap, h]

theorem memRead_memWrite_same {cap : Option Nat} {i : Nat} (h : inCap cap i = true) (m : Memory) (v : Nat) :
    memRead cap (memWrite cap m i v) i = v % 2 ^ 8 := by
  simp [memRead, memWrite, h]

theorem memWrite_outOfRange {cap : Option Nat} {i : Nat} (h : inCap cap i = false) (m : Memory) (v : Nat) :
    memWrite cap m i v = m := by
  simp [memWrite, h]

theorem memRead_memWrite_other {i i' : Nat} (h : i' ≠ i) (cap : Option Nat) (m : Memory) (v : Nat) :
    memRead cap (memWrite cap m i v) i' = memRead cap m i' := by
  unfold memWrite
  split
  · rw [memRead, m.read_write_other _ h, memRead]
  · rfl

/-! ## Register arrays -/

section
variable {w : Nat} (b : Vector (BitVec w) 256)

theorem bankRead_of_lt {i : Nat} (h : i < 256) : bankRead b i = b[i].toNat := by simp [bankRead, h]

theorem bankRead_outOfRange {i : Nat} (h : 256 ≤ i) : bankRead b i = 0 := by simp [bankRead, Nat.not_lt.2 h]

theorem bankRead_bankWrite_same {i : Nat} (h : i < 256) (v : Nat) : bankRead (bankWrite b i v) i = v % 2 ^ w := by
  simp [bankRead, bankWrite, h]

theorem bankWrite_outOfRange {i : Nat} (h : ¬ i < 256) (v : Nat) : bankWrite b i v = b := by simp [bankWrite, h]

theorem bankRead_bankWrite_other {i i' : Nat} (h : i' ≠ i) (v : Nat) : bankRead (bankWrite b i v) i' = bankRead b i' := by
  unfold bankWrite
  split
  · simp [bankRead, Vector.getElem_set_ne, h.symm]
  · rfl

end

/-! ## Registers -/

theorem statusWord_toNat (s : State) : s.statusWord.toNat = s.status.code.toNat := by
  rw [State.statusWord, BitVec.toNat_append]
  simp

/-- The fields of `ERR` at their places (rule R24). -/
theorem errWord_toNat (s : State) :
    s.errWord.toNat = s.errKind.toNat + 256 * s.errCause.toNat + 65536 * s.errCh.toNat := by
  have hk := s.errKind.isLt
  have hc := s.errCause.isLt
  simp only [State.errWord, BitVec.toNat_append]
  rw [← Nat.shiftLeft_add_eq_or_of_lt (by omega), ← Nat.shiftLeft_add_eq_or_of_lt (by simp),
    ← Nat.shiftLeft_add_eq_or_of_lt (by omega), ← Nat.shiftLeft_add_eq_or_of_lt (by omega)]
  simp only [Nat.shiftLeft_eq, BitVec.ofNat_eq_ofNat, BitVec.toNat_ofNat]
  omega

theorem regRead_regWrite_same {i n : Nat} (h : writableWidth i = some n) (s : State) (v : Nat) :
    regRead (regWrite s i v) i = v % 2 ^ n := by
  unfold writableWidth at h
  split at h
  case h_9 => cases h
  all_goals
    cases h
    exact BitVec.toNat_ofNat _ _

theorem regWrite_readOnly {i : Nat} (h : writableWidth i = none) (s : State) (v : Nat) : regWrite s i v = s := by
  unfold regWrite
  split
  case h_9 => rfl
  all_goals cases h

theorem regRead_regWrite_other {i i' : Nat} (h : i' ≠ i) (s : State) (v : Nat) :
    regRead (regWrite s i v) i' = regRead s i' := by
  unfold regWrite
  split
  case h_9 => rfl
  all_goals
    unfold regRead
    split
    any_goals rfl
    exact absurd rfl h

/-- `CMD` and the reserved numbers read 0 (rule R42). -/
theorem regRead_reserved {i : Nat} (h : i = 0 ∨ isRegister i = false) (s : State) : regRead s i = 0 := by
  unfold regRead
  split
  case h_20 => rfl
  all_goals exact absurd h (by decide)

/-! ## The store -/

/-- `s` with the banks a host can write (rule R65) as in `t`. -/
def withHostBanksOf (s t : State) : State :=
  { s with
    desc := t.desc, img := t.img, contLen := t.contLen, cont := t.cont, resN := t.resN, res := t.res, freq := t.freq
    len := t.len, payLen := t.payLen, pay := t.pay }

/-- A store leaves everything but the host's banks alone. -/
theorem hostStore_frame (s : State) (space i v : Nat) :
    hostStore s space i v = withHostBanksOf s (hostStore s space i v) := by
  unfold hostStore regWrite
  split
  · split <;> rfl
  all_goals rfl

/-- Rules R64 to R66: a writable element reads the stored value modulo `2^N`. -/
theorem hostRead_hostStore_same {s : State} {space i n : Nat} (h : elementWidth s.cfg space i = some n) (v : Nat) :
    hostRead (hostStore s space i v) space i = v % 2 ^ n := by
  unfold elementWidth at h
  split at h
  · exact regRead_regWrite_same h s v
  case h_6 =>
    obtain ⟨hi, rfl⟩ : i < 256 ∧ 64 = n := by simpa using h
    exact bankRead_bankWrite_same s.freq hi v
  case h_7 =>
    obtain ⟨hi, rfl⟩ : i < 256 ∧ 8 = n := by simpa using h
    exact bankRead_bankWrite_same s.len hi v
  case h_8 => cases h
  all_goals
    obtain ⟨hc, rfl⟩ := byteWidth_eq_some.1 h
    exact memRead_memWrite_same hc _ v

/-- Rules R42, R43, R65: a store into a read-only, reserved or out-of-range element is ignored. -/
theorem hostStore_unwritable {s : State} {space i : Nat} (h : elementWidth s.cfg space i = none) (v : Nat) :
    hostStore s space i v = s := by
  unfold elementWidth at h
  unfold hostStore
  split
  · exact regWrite_readOnly h s v
  · rw [memWrite_outOfRange (byteWidth_eq_none.1 h)]
  · rw [memWrite_outOfRange (byteWidth_eq_none.1 h)]
  · rw [memWrite_outOfRange (byteWidth_eq_none.1 h)]
  · rw [memWrite_outOfRange (byteWidth_eq_none.1 h)]
  · rw [bankWrite_outOfRange s.freq (by simpa using h)]
  · rw [bankWrite_outOfRange s.len (by simpa using h)]
  · rfl

theorem hostRead_regWrite_otherSpace {space : Nat} (h : space ≠ 0) (s : State) (i i' v : Nat) :
    hostRead (regWrite s i v) space i' = hostRead s space i' := by
  unfold regWrite
  split
  case h_9 => rfl
  all_goals
    unfold hostRead
    split
    any_goals rfl
    exact absurd rfl h

/-- A store into one space leaves what every other space reads. -/
theorem hostRead_hostStore_otherSpace {space space' : Nat} (h : space' ≠ space) (s : State) (i i' v : Nat) :
    hostRead (hostStore s space i v) space' i' = hostRead s space' i' := by
  unfold hostStore
  split
  case h_1 => exact hostRead_regWrite_otherSpace h s i i' v
  case h_8 => rfl
  all_goals
    unfold hostRead
    split
    any_goals rfl
    exact absurd rfl h

/-- Rule R65: a store changes what no other element reads. -/
theorem hostRead_hostStore_other {space i space' i' : Nat} (h : (space', i') ≠ (space, i)) (s : State) (v : Nat) :
    hostRead (hostStore s space i v) space' i' = hostRead s space' i' := by
  by_cases hs : space' = space
  · subst hs
    have hi : i' ≠ i := by rintro rfl; exact h rfl
    unfold hostStore
    split
    · exact regRead_regWrite_other hi s v
    · exact memRead_memWrite_other hi _ _ v
    · exact memRead_memWrite_other hi _ _ v
    · exact memRead_memWrite_other hi _ _ v
    · exact memRead_memWrite_other hi _ _ v
    · exact bankRead_bankWrite_other s.freq hi v
    · exact bankRead_bankWrite_other s.len hi v
    · rfl
  · exact hostRead_hostStore_otherSpace hs s i i' v

end Sys2Proof.Machine
end

section
/-! SUPPORT. The host port, step by step (rules R64 to R67): what a step on a host read or a host write does to a block that
is BUSY and to one that is not. -/

namespace Sys2Proof.Machine

open Claims (elementWidth)

/-! ## One host access -/

/-- A host read of a block that is not BUSY returns the element's value (rule R64). -/
theorem portRead_idle {s : State} (h : s.status ≠ .busy) (space i : Nat) :
    portRead space i s = { s with portData := hostRead s space i } := by
  unfold portRead
  split
  case h_1 hb => exact absurd hb h
  all_goals rfl

/-- While BUSY, `STATUS` reads 1 (rule R67). -/
theorem portRead_busy_status {s : State} (h : s.status = .busy) : portRead 0 1 s = { s with portData := 1 } := by
  unfold portRead
  rw [h]
  rfl

theorem portStore_idle {s : State} (h : s.status ≠ .busy) (space i v : Nat) :
    portStore space i v s = hostStore s space i v := by
  rw [portStore_eq, if_neg h]

theorem portStore_busy {s : State} (h : s.status = .busy) (space i v : Nat) : portStore space i v s = s := by
  rw [portStore_eq, if_pos h]

theorem portStore_unwritable {s : State} {space i : Nat} (h : elementWidth s.cfg space i = none) (v : Nat) :
    portStore space i v s = s := by
  rw [portStore_eq, hostStore_unwritable h, ite_self]

theorem hostRead_portStore_same {s : State} {space i n : Nat} (hs : s.status ≠ .busy)
    (h : elementWidth s.cfg space i = some n) (v : Nat) : hostRead (portStore space i v s) space i = v % 2 ^ n := by
  rw [portStore_idle hs, hostRead_hostStore_same h]

theorem hostRead_portStore_other {space i space' i' : Nat} (h : (space', i') ≠ (space, i)) (s : State) (v : Nat) :
    hostRead (portStore space i v s) space' i' = hostRead s space' i' := by
  rw [portStore_eq]
  split
  · rfl
  · exact hostRead_hostStore_other h s v

/-- A host write, in any state, leaves everything but the host's banks alone. -/
theorem portStore_frame (s : State) (space i v : Nat) :
    portStore space i v s = withHostBanksOf s (portStore space i v s) := by
  rw [portStore_eq]
  split
  · rfl
  · exact hostStore_frame s space i v

theorem portStore_port (s : State) (space i v : Nat) : (portStore space i v s).port = s.port :=
  (congrArg State.port (portStore_frame s space i v)).trans rfl

theorem portStore_status (s : State) (space i v : Nat) : (portStore space i v s).status = s.status :=
  (congrArg State.status (portStore_frame s space i v)).trans rfl

/-! ## The step on a host access -/

theorem step_read {s : State} {space i : Nat} {rest : List HostEvent} (h : s.port = .read space i :: rest) :
    step s = .next (portRead space i { s with port := rest }) := by
  rw [step, advance, h]
  rfl

theorem step_write_cmd (s : State) (v : Nat) (rest : List HostEvent) :
    step { s with port := .write 0 0 v :: rest } = offer (BitVec.ofNat 32 v) { s with port := rest } := rfl

theorem step_store {space i : Nat} (h : (space, i) ≠ (0, 0)) (s : State) (v : Nat) (rest : List HostEvent) :
    step { s with port := .write space i v :: rest } = .next (portStore space i v { s with port := rest }) := by
  have hne : ¬(space = 0 ∧ i = 0) := by simpa using h
  simp only [step, advance, hostEvent, if_neg hne]

/-- A BUSY block drops a written word (rules R67, R93). -/
theorem offer_busy {s : State} (h : s.status = .busy) (w : Word) : offer w s = .next s := by
  rw [offer, h]

/-- While BUSY every host write is dropped, to `CMD` by the acceptance, to any other element by the port (rule R67). -/
theorem step_write_busy {s : State} (h : s.status = .busy) (space i v : Nat) (rest : List HostEvent) :
    step { s with port := .write space i v :: rest } = .next { s with port := rest } := by
  have hb : ({ s with port := rest } : State).status = .busy := h
  by_cases hc : (space, i) = (0, 0)
  · obtain ⟨rfl, rfl⟩ := Prod.mk.inj hc
    rw [step_write_cmd, offer_busy hb]
  · rw [step_store hc, portStore_busy hb]

/-- `CMD` is not among the elements a store reaches. -/
theorem ne_cmd_of_elementWidth {p : Params} {space i n : Nat} (h : elementWidth p space i = some n) :
    (space, i) ≠ (0, 0) := by
  rintro ⟨⟩
  cases h

/-! ## The obligations on the host port -/

/-- Settles O8: writes are dropped, and a read changes only the model's own two fields. -/
theorem busyPortIsInert : Obligations.BusyPortIsInert := by
  intro s rest space i v h
  have hb : ({ s with port := rest } : State).status = .busy := h
  refine ⟨step_write_busy h space i v rest, ?_, _, step_read rfl, ?_⟩
  · rw [step_read rfl, portRead_busy_status hb]
  · obtain ⟨d, n, hr⟩ := portRead_frame space i { s with port := rest }
    rw [hr]

/-- Settles O11: the write is the store, the state after it is not BUSY, and the read returns what was stored. -/
theorem hostWriteReadsBack : Obligations.HostWriteReadsBack := by
  intro s space i v n rest hs hw
  refine ⟨hostRead_portStore_same hs hw v, _, _, step_store (ne_cmd_of_elementWidth hw) s v _, rfl,
    step_read (portStore_port ..), ?_⟩
  rw [portRead_idle (by rw [portStore_status]; exact hs)]
  exact ⟨rfl, hostRead_portStore_same (s := { s with port := .read space i :: rest }) hs hw v, rfl⟩

/-- Settles O12: reads are `portRead_idle`, ignored writes `portStore_unwritable`; the values are those of each bank. -/
theorem ignoredWritesAndFixedReads : Obligations.IgnoredWritesAndFixedReads := by
  refine ⟨fun s space i rest hs => ?_, fun s space i v rest hw => ⟨portStore_unwritable hw v, fun hc => ?_⟩, fun s => ?_,
    fun s i => ?_, fun s v => ?_, fun s space i hs => ?_⟩
  · have hi : ({ s with port := rest } : State).status ≠ .busy := hs
    rw [step_read rfl, portRead_idle hi]
    rfl
  · have hu : elementWidth ({ s with port := rest } : State).cfg space i = none := hw
    rw [step_store hc, portStore_unwritable hu]
  · refine ⟨(statusWord_toNat s).trans ?_, errWord_toNat s, rfl, rfl, rfl, rfl, rfl, rfl, rfl, rfl, rfl, rfl, rfl, rfl, rfl,
      rfl, rfl, rfl, rfl⟩
    cases s.status <;> rfl
  · refine ⟨fun hi => regRead_reserved hi s, memRead_eq _ _ i, memRead_eq _ _ i, memRead_eq _ _ i, memRead_eq _ _ i,
      fun hi => ?_, fun hi => ?_, fun hi => ?_⟩
    · exact ⟨bankRead_outOfRange _ hi, bankRead_outOfRange _ hi, bankRead_outOfRange _ hi, bankRead_outOfRange _ hi⟩
    · exact ⟨if_neg (Nat.not_lt.2 hi), if_neg (Nat.not_lt.2 hi), if_neg (Nat.not_lt.2 hi)⟩
    · exact ⟨if_pos hi, if_pos hi, if_pos hi⟩
  · exact ⟨bankRead_of_lt _ v.isLt, bankRead_of_lt _ v.isLt, bankRead_of_lt _ v.isLt, bankRead_of_lt _ v.isLt⟩
  · unfold hostRead
    split
    case h_13 => rfl
    all_goals exact absurd hs (by decide)

/-- Settles O13: `step_store`, `hostRead_portStore_other`, and the frame of a store. -/
theorem hostWriteChangesOnlyItsElement : Obligations.HostWriteChangesOnlyItsElement := by
  intro s space i v
  refine ⟨fun hc rest => step_store hc s v rest, fun space' i' hne => hostRead_portStore_other hne s v, ?_⟩
  rw [portStore_frame]
  exact ⟨rfl, rfl, rfl, rfl, rfl, rfl, rfl, rfl, rfl⟩

end Sys2Proof.Machine
end

section
/-! SUPPORT. The field codecs (rule R62), the container cursor (rules R70, R71) and the input capacity checks (rule R80). -/

namespace Sys2Proof.Machine

/-! ## The field codecs -/

@[simp] theorem uLE_nil : uLE [] = 0 := rfl

@[simp] theorem uLE_cons (b : Byte) (bs : List Byte) : uLE (b :: bs) = b.toNat + 256 * uLE bs := rfl

/-- The bytes of `LE16(v)` as numbers (rule R62). -/
theorem le16_toNat (v : BitVec 16) : (le16 v).map BitVec.toNat = [v.toNat % 256, v.toNat / 256] := by
  have hv := v.isLt
  simp only [le16, List.map_cons, List.map_nil, BitVec.extractLsb'_toNat, Nat.shiftRight_eq_div_pow,
    List.cons.injEq, and_true]
  omega

/-- The bytes of `LE32(v)` as numbers (rule R62). -/
theorem le32_toNat (v : BitVec 32) : (le32 v).map BitVec.toNat =
    [v.toNat % 256, v.toNat / 256 % 256, v.toNat / 65536 % 256, v.toNat / 16777216] := by
  have hv := v.isLt
  simp only [le32, List.map_cons, List.map_nil, BitVec.extractLsb'_toNat, Nat.shiftRight_eq_div_pow,
    List.cons.injEq, and_true, true_and]
  omega

/-- `uLE` sees the bytes only as numbers. -/
theorem uLE_eq_foldr (bs : List Byte) : uLE bs = (bs.map BitVec.toNat).foldr (fun b n => b + 256 * n) 0 := by
  induction bs with
  | nil => rfl
  | cons b bs ih => simp [ih]

theorem uLE_le16 (v : BitVec 16) : uLE (le16 v) = v.toNat := by
  rw [uLE_eq_foldr, le16_toNat]
  simp only [List.foldr_cons, List.foldr_nil]
  omega

theorem uLE_le32 (v : BitVec 32) : uLE (le32 v) = v.toNat := by
  rw [uLE_eq_foldr, le32_toNat]
  simp only [List.foldr_cons, List.foldr_nil]
  omega

/-- Settles O47: the bytes of the writers, the weighted sums of the readers, and the worked example by evaluation. -/
theorem littleEndianCodecs : Obligations.LittleEndianCodecs := by
  refine ⟨fun v => ⟨le16_toNat v, uLE_le16 v⟩, fun v => ⟨le32_toNat v, uLE_le32 v⟩, fun b0 b1 => ?_,
    fun b0 b1 b2 b3 => ?_, rfl, rfl, rfl⟩
  · simp
  · simp only [uLE_cons, uLE_nil]
    omega

/-! ## The container cursor -/

/-- `ContRead`, when the field is not whole: the given cause at the unmoved cursor (rule R70). -/
theorem contRead_truncated {n : Nat} {s : State} (h : s.contLen.toNat < s.cpos.toNat + n) (c : Cause) :
    contRead n c s = .error ⟨c, s.cpos.toNat, s.curch⟩ := by
  rw [contRead_eq, if_pos h]

/-- `ContRead`, when the field is whole: its bytes, and the cursor behind it (rule R70). -/
theorem contRead_whole {n : Nat} {s : State} (h : s.cpos.toNat + n ≤ s.contLen.toNat) (c : Cause) :
    contRead n c s =
      .ok (s.cont.readBytes s.cpos.toNat n, { s with cpos := s.cpos + BitVec.ofNat 64 n }) := by
  rw [contRead_eq, if_neg (Nat.not_lt.2 h)]

theorem Memory.readBytes_getD {n i : Nat} (h : i < n) (m : Memory) (a : Nat) :
    (m.readBytes a n).getD i 0 = m.read (a + i) := by
  simp [Memory.readBytes, h]

/-- `ContWrite`, when the end is above the capacity or the width of the cursor (rule R71). -/
theorem contWrite_noRoom {bs : List Byte} {s : State}
    (h : overCap s.cfg.contCap (s.cpos.toNat + bs.length) = true ∨ 2 ^ 64 - 1 < s.cpos.toNat + bs.length) :
    contWrite bs s = .error ⟨.capCont, s.cpos.toNat, s.curch⟩ := by
  rw [contWrite, if_pos (by simpa only [Bool.or_eq_true, decide_eq_true_eq] using h), State.failure]

/-- Settles O48: a read by `contRead_truncated` and `contRead_whole`, a write by `contWrite_noRoom` and `contWrite_ok`. -/
theorem containerCursorMovesWholeFields : Obligations.ContainerCursorMovesWholeFields := by
  refine ⟨fun n c s => ⟨fun h => contRead_truncated h c, fun h => ?_⟩,
    fun bs s => ⟨contWrite_noRoom, fun hcap hlen => ?_⟩⟩
  · have hr := contRead_whole h c
    obtain ⟨hpos, -⟩ := contRead_ok_cpos hr
    exact ⟨_, _, hr, Memory.readBytes_length _ _ _, fun i hi => Memory.readBytes_getD hi _ _, hpos, rfl⟩
  · have hend : s.cpos.toNat + bs.length < 2 ^ 64 := by omega
    refine ⟨_, contWrite_ok hcap hend, fun i hi => ?_, fun a ha => Memory.read_writeBytes_outside _ _ ha,
      Nat.mod_eq_of_lt hend, rfl⟩
    simp [Memory.read_writeBytes, hi]

/-! ## The input checks -/

section
variable {s : State}

theorem checkRes_over (h : overCap s.cfg.resCap s.resN.toNat = true) :
    checkRes s = .error ⟨.capRes, s.resN.toNat, s.curch⟩ := by
  rw [checkRes_eq, if_pos h]

theorem checkRes_within (h : overCap s.cfg.resCap s.resN.toNat = false) : checkRes s = .ok () := by
  rw [checkRes_eq, h, if_neg Bool.false_ne_true]

theorem checkPay_over (h : overCap s.cfg.payCap s.payLen.toNat = true) :
    checkPay s = .error ⟨.capPay, s.payLen.toNat, s.curch⟩ := by
  rw [checkPay_eq, if_pos h]

theorem checkCont_over (h : overCap s.cfg.contCap s.contLen.toNat = true) :
    checkCont s = .error ⟨.capCont, s.contLen.toNat, s.curch⟩ := by
  rw [checkCont_eq, if_pos h]

end

/-- A command whose first stage raises ends with that raise, whatever its later stages are. -/
theorem next_endCommand_first_error {α : Type} {r : Except Raise α} {e : Raise} (h : r = .error e) (cls : ErrClass)
    (s : State) (f : α → Except Raise State) :
    (.next (endCommand cls s (r >>= f)) : Host.Outcome State Fault Refusal) = .next (raise cls e s) := by
  rw [h]
  rfl

/-- With `RES` within its capacity, `DEC` begins with the check on `PAY`. -/
theorem decBody_of_res_within {s : State} (h : overCap s.cfg.resCap s.resN.toNat = false) :
    decBody s = checkPay s >>= fun _ => decodeChannel s := by
  rw [decBody, checkRes_within h]
  rfl

/-- Settles O21: the input check is the first stage of each command's body; in `DEC` the one on `RES` stands before that on
`PAY`. -/
theorem inputChecksRaiseCapacity : Obligations.InputChecksRaiseCapacity := by
  intro s c
  refine ⟨fun h => ⟨?_, ?_⟩, fun h => ⟨?_, ?_, fun hr => ?_⟩, fun h => ⟨?_, ?_⟩⟩
  · have hc := checkRes_over h
    simp only [List.forall_mem_cons]
    exact ⟨next_endCommand_first_error hc .e s _, next_endCommand_first_error hc .e s _,
      next_endCommand_first_error hc .e s _, nofun⟩
  · exact next_endCommand_first_error (checkRes_over (s := { s with curch := c.setWidth 2 }) h) .iw s _
  · have hc := checkPay_over h
    simp only [List.forall_mem_cons]
    exact ⟨next_endCommand_first_error hc .e s _, next_endCommand_first_error hc .e s _, nofun⟩
  · exact next_endCommand_first_error (checkPay_over h) .cw s _
  · rw [exec, execDec, decBody_of_res_within hr]
    exact next_endCommand_first_error (checkPay_over h) .e s _
  · exact next_endCommand_first_error (checkCont_over h) .e s _
  · simp only [List.forall_mem_cons]
    exact ⟨next_endCommand_first_error (checkCont_over h) .iw s _,
      next_endCommand_first_error (checkCont_over (s := resetEphemeral s) h) .iw s _, nofun⟩

end Sys2Proof.Machine
end

section
/-! SUPPORT. Encoding (rules R90 to R94): the fields of a word as numbers, the opcode map as a relation between opcodes and
commands, and from them what the decoder answers. -/

namespace Sys2Proof

open Claims (reservedOpcode reservedBitsSet)

/-! ## The fields of a word -/

theorem opField_toNat (w : Word) : (opField w).toNat = w.toNat % 256 := by
  simp [opField, BitVec.extractLsb'_toNat]

theorem operandField_toNat (w : Word) : (operandField w).toNat = w.toNat / 256 % 256 := by
  simp [operandField, BitVec.extractLsb'_toNat, Nat.shiftRight_eq_div_pow]

theorem reservedField_toNat (w : Word) : (reservedField w).toNat = w.toNat / 65536 := by
  have hw := w.isLt
  simp only [reservedField, BitVec.extractLsb'_toNat, Nat.shiftRight_eq_div_pow]
  omega

theorem encode_toNat (i : Instr) : (encode i).toNat = i.operand.toNat * 256 + i.op.toNat := by
  have hop := i.op.isLt
  have ha := i.operand.isLt
  simp only [encode, BitVec.toNat_append, BitVec.ofNat_eq_ofNat, BitVec.toNat_ofNat, Nat.zero_mod, Nat.zero_shiftLeft,
    Nat.zero_or]
  rw [← Nat.shiftLeft_add_eq_or_of_lt hop, Nat.shiftLeft_eq]

/-- A word is a command's encoding when its three fields are the command's (rule R90). -/
theorem encode_eq_iff {i : Instr} {w : Word} :
    encode i = w ↔ opField w = i.op ∧ operandField w = i.operand ∧ reservedField w = 0 := by
  have hop := i.op.isLt
  have ha := i.operand.isLt
  simp only [BitVec.toNat_eq, encode_toNat, opField_toNat, operandField_toNat, reservedField_toNat,
    BitVec.ofNat_eq_ofNat, BitVec.toNat_ofNat, Nat.zero_mod]
  omega

/-! ## The opcode map -/

theorem Format.admits_n {a : Byte} : Format.n.admits a = true ↔ a = 0 := by simp [Format.admits]

/-- Rule R91, format C: `A[7:2]` is 0 exactly for the channel numbers. -/
theorem Format.admits_c (a : Byte) : Format.c.admits a = decide (a.toNat < 4) := by
  have ha := a.isLt
  simp only [Format.admits, beq_eq_decide, BitVec.toNat_eq, BitVec.extractLsb'_toNat, Nat.shiftRight_eq_div_pow,
    BitVec.ofNat_eq_ofNat, BitVec.toNat_ofNat, Nat.zero_mod, decide_eq_decide]
  omega

/-- Every command stands in the map at its own opcode, in a format that admits its operand when the command is well-formed. -/
theorem opcodeMap_op (i : Instr) :
    ∃ f mk, opcodeMap i.op = some (f, mk) ∧ f.admits i.operand = i.wf ∧ mk i.operand = i := by
  cases i with
  | filtFwd c => exact ⟨.c, .filtFwd, rfl, Format.admits_c c, rfl⟩
  | filtInv c => exact ⟨.c, .filtInv, rfl, Format.admits_c c, rfl⟩
  | _ => exact ⟨_, _, rfl, rfl, rfl⟩

/-- A row of the map makes, of an operand that its format admits, a well-formed command with that opcode and operand. -/
theorem opcodeMap_row {op a : Byte} {f : Format} {mk : Byte → Instr} (h : opcodeMap op = some (f, mk))
    (ha : f.admits a = true) : (mk a).op = op ∧ (mk a).operand = a ∧ (mk a).wf = true := by
  unfold opcodeMap at h
  split at h
  case h_5 hop | h_6 hop =>
    cases h
    exact ⟨(BitVec.eq_of_toNat_eq hop).symm, rfl, (Format.admits_c a).symm.trans ha⟩
  case h_11 hop =>
    cases h
    exact ⟨(BitVec.eq_of_toNat_eq hop).symm, rfl, rfl⟩
  case h_23 => cases h
  all_goals
    rename_i hop
    cases h
    exact ⟨(BitVec.eq_of_toNat_eq hop).symm, (Format.admits_n.1 ha).symm, rfl⟩

/-- The reserved opcodes of rule R94 (a) are those that have no row. -/
theorem opcodeMap_none_iff (op : Byte) : opcodeMap op = none ↔ reservedOpcode op.toNat = true := by
  have hop := op.isLt
  unfold opcodeMap
  split
  case h_23 =>
    simp only [reservedOpcode, Bool.or_eq_true, Bool.and_eq_true, decide_eq_true_eq, true_iff, imp_false] at *
    omega
  all_goals
    rename_i h
    rw [h]
    decide

/-- The format of a row by its opcode (rules R91, R92). -/
theorem opcodeMap_format {op : Byte} {f : Format} {mk : Byte → Instr} (h : opcodeMap op = some (f, mk)) :
    f = if op.toNat = 0x10 ∨ op.toNat = 0x11 then .c else if op.toNat = 0x51 then .s else .n := by
  unfold opcodeMap at h
  split at h
  case h_23 => cases h
  all_goals
    rename_i hop
    cases h
    rw [hop]
    rfl

/-! ## The decoder -/

theorem decode_eq_reservedOpcode_iff (w : Word) :
    decode w = .error .reservedOpcode ↔ opcodeMap (opField w) = none := by
  unfold decode
  split
  · next h => simp [h]
  · next h => split <;> simp [h]

/-- With a legal opcode, a word decodes exactly when its reserved bits are 0 and its operand is admitted. -/
theorem decode_of_row {w : Word} {f : Format} {mk : Byte → Instr} (h : opcodeMap (opField w) = some (f, mk)) :
    decode w = if reservedField w = 0 ∧ f.admits (operandField w) = true then .ok (mk (operandField w))
      else .error .reservedBits := by
  simp only [decode, h, Bool.and_eq_true, beq_iff_eq]

/-- The decoder answers exactly the well-formed command whose encoding the word is. -/
theorem decode_eq_ok_iff {w : Word} {i : Instr} : decode w = .ok i ↔ encode i = w ∧ i.wf = true := by
  rw [encode_eq_iff]
  constructor
  · intro hd
    cases hrow : opcodeMap (opField w) with
    | none => rw [(decode_eq_reservedOpcode_iff w).2 hrow] at hd; cases hd
    | some row =>
      rw [decode_of_row hrow] at hd
      split at hd
      · next hc =>
        obtain ⟨hop, ha, hwf⟩ := opcodeMap_row hrow hc.2
        cases hd
        exact ⟨⟨hop.symm, ha.symm, hc.1⟩, hwf⟩
      · cases hd
  · rintro ⟨⟨hop, ha, hr⟩, hwf⟩
    obtain ⟨f, mk, hrow, hadm, hmk⟩ := opcodeMap_op i
    rw [decode_of_row (hop ▸ hrow), ha, hadm, hmk, if_pos ⟨hr, hwf⟩]

/-- The must-be-zero bits of rule R94 (b) are the reserved field and what the row's format does not admit. -/
theorem reservedBitsSet_of_row {w : Word} {f : Format} {mk : Byte → Instr} (h : opcodeMap (opField w) = some (f, mk)) :
    reservedBitsSet w.toNat = false ↔ reservedField w = 0 ∧ f.admits (operandField w) = true := by
  have hf := opcodeMap_format h
  rw [opField_toNat] at hf
  have hr : reservedField w = 0 ↔ w.toNat / 65536 = 0 := by
    rw [BitVec.toNat_eq, reservedField_toNat]; rfl
  have hn : Format.n.admits (operandField w) = true ↔ w.toNat / 256 % 256 = 0 := by
    rw [Format.admits_n, BitVec.toNat_eq, operandField_toNat]; rfl
  have hc : Format.c.admits (operandField w) = true ↔ w.toNat / 256 % 256 < 4 := by
    rw [Format.admits_c, operandField_toNat, decide_eq_true_eq]
  simp only [reservedBitsSet, Bool.or_eq_false_iff, Bool.and_eq_false_iff, decide_eq_false_iff_not, beq_eq_false_iff_ne]
  rw [hr, hf]
  split
  · rw [hc]; omega
  · split
    · simp only [Format.admits, and_true]; omega
    · rw [hn]; omega

/-! ## The obligations on encoding -/

/-- Settles O1: `decode_eq_ok_iff` at the command's own word. -/
theorem decodeInvertsEncode : Obligations.DecodeInvertsEncode := fun _ hwf => decode_eq_ok_iff.2 ⟨rfl, hwf⟩

/-- Settles O2: `decode_eq_ok_iff`. -/
theorem decodedWordsEncodeBack : Obligations.DecodedWordsEncodeBack := fun _ _ h => decode_eq_ok_iff.1 h

/-- Settles O4: a reserved opcode has no row; with a row, `reservedBitsSet_of_row` says which of the two answers is given. -/
theorem reservedWordsAreRejected : Obligations.ReservedWordsAreRejected := by
  intro w
  have hop := opcodeMap_none_iff (opField w)
  rw [opField_toNat] at hop
  cases hrow : opcodeMap (opField w) with
  | none => simp [(decode_eq_reservedOpcode_iff w).2 hrow, hop.1 hrow]
  | some row =>
    have hlegal : reservedOpcode (w.toNat % 256) = false := by simpa [hrow] using hop
    have hbits := reservedBitsSet_of_row hrow
    simp only [decode_of_row hrow, ← hbits]
    cases reservedBitsSet w.toNat <;> simp [hlegal]

/-- Settles O3: each word by evaluation. -/
theorem specWordsDecode : Obligations.SpecWordsDecode :=
  ⟨rfl, rfl, rfl, rfl, rfl, rfl, rfl, rfl, rfl, rfl, rfl, rfl, rfl, rfl, rfl⟩

end Sys2Proof
end

section
/-! SUPPORT. The sequencer (rules R93, R94): when an accepted word runs, what a word that is no command leaves, and what a block
in ERROR accepts. -/

namespace Sys2Proof.Machine

open Claims (IllegalLeaves)

/-! ## An accepted word -/

theorem runWord_ok {w : Word} {i : Instr} (h : decode w = .ok i) (s : State) : runWord w s = exec i s := by
  rw [runWord, h]

theorem runWord_error {w : Word} {e : DecodeError} (h : decode w = .error e) (s : State) :
    runWord w s = .next (raise .e ⟨illegalCause e, w.toNat, s.curch⟩ s) := by
  rw [runWord, h]
  rfl

theorem offer_ready {s : State} (h : s.status = .idle ∨ s.status = .done) (w : Word) :
    offer w s = start w { s with status := .busy } := by
  rcases h with h | h <;> rw [offer, h]

/-- Any host event but a wait finds the block BUSY with the word that was just accepted (log 1). -/
theorem start_before_event {e : HostEvent} (he : e ≠ .wait) {s : State} {rest : List HostEvent} (hp : s.port = e :: rest)
    (w : Word) : start w s = .next { s with running := some w } := by
  rw [start, hp]
  cases e with
  | wait => exact absurd rfl he
  | _ => rfl

theorem step_write_word (s : State) (w : Word) (rest : List HostEvent) :
    step { s with port := .write 0 0 w.toNat :: rest } = offer w { s with port := rest } := by
  rw [step_write_cmd, BitVec.ofNat_toNat, BitVec.setWidth_eq]

section
variable {s : State} (h : s.status = .idle ∨ s.status = .done) (w : Word)
include h

theorem step_accepts_word (rest : List HostEvent) :
    step { s with port := .write 0 0 w.toNat :: rest } = start w { s with port := rest, status := .busy } :=
  (step_write_word s w rest).trans (offer_ready (s := { s with port := rest }) h w)

theorem step_word_then_wait (rest : List HostEvent) :
    step { s with port := .write 0 0 w.toNat :: .wait :: rest } = runWord w { s with port := rest, status := .busy } :=
  step_accepts_word h w _

theorem step_last_word :
    step { s with port := [.write 0 0 w.toNat] } = runWord w { s with port := [], status := .busy } :=
  step_accepts_word h w _

theorem step_word_then_event {e : HostEvent} (he : e ≠ .wait) (rest : List HostEvent) :
    step { s with port := .write 0 0 w.toNat :: e :: rest } =
      .next { s with port := e :: rest, status := .busy, running := some w } :=
  (step_accepts_word h w _).trans (start_before_event he rfl w)

end

section
variable {s : State} {w : Word}

theorem finish_running (h : s.running = some w) : finish s = runWord w { s with running := none } := by
  rw [finish, h]

theorem finish_idle (h : s.running = none) : finish s = .next s := by
  rw [finish, h]

theorem step_wait_running (h : s.running = some w) (rest : List HostEvent) :
    step { s with port := .wait :: rest } = runWord w { s with port := rest, running := none } :=
  finish_running (s := { s with port := rest }) h

theorem step_end_running (h : s.running = some w) :
    step { s with port := [] } = runWord w { s with port := [], running := none } :=
  finish_running (s := { s with port := [] }) h

theorem step_wait_idle (h : s.running = none) (rest : List HostEvent) :
    step { s with port := .wait :: rest } = .next { s with port := rest } :=
  finish_idle (s := { s with port := rest }) h

theorem step_end_idle (h : s.running = none) : step { s with port := [] } = .next { s with port := [] } :=
  finish_idle (s := { s with port := [] }) h

end

/-! ## A word that is no command -/

/-- The raise of an illegal word leaves what rules R94 (e) and R240 say of class E. -/
theorem raise_illegalLeaves (w : Word) (e : DecodeError) (s : State) :
    IllegalLeaves w e s (raise .e ⟨illegalCause e, w.toNat, s.curch⟩ s) := by
  have hkind : (illegalCause e).kind = 6 := by cases e <;> rfl
  have hcode : (illegalCause e).code = if e = .reservedOpcode then 0x60 else 0x61 := by cases e <;> rfl
  have hpos : BitVec.ofNat 64 w.toNat = w.setWidth 64 := BitVec.ofNat_toNat 64 w
  exact ⟨raise_status .., (raise_errKind ..).trans hkind, (raise_errCause ..).trans hcode, raise_errCh ..,
    (raise_errPos ..).trans hpos, raise_cpos .., raise_curch .., raise_clear .., raise_result .., raise_e_desc ..,
    raise_e_img .., raise_e_contLen .., raise_e_cont .., raise_cfg .., raise_port .., raise_running .., raise_portData ..,
    raise_busyReads ..⟩

theorem runWord_illegalLeaves {w : Word} {e : DecodeError} (h : decode w = .error e) (s : State) :
    ∃ t, runWord w s = .next t ∧ IllegalLeaves w e s t :=
  ⟨_, runWord_error h s, raise_illegalLeaves w e s⟩

/-! ## The obligations on the sequencer -/

/-- Settles O6: on each of the four ways to run it, the word ends as in `runWord_illegalLeaves`. -/
theorem illegalWordRaises : Obligations.IllegalWordRaises := by
  refine ⟨fun s w e rest hs hd => ⟨?_, ?_⟩, fun s w e rest hr hd => ⟨?_, ?_⟩⟩
  · rw [step_word_then_wait hs]
    exact runWord_illegalLeaves hd _
  · rw [step_last_word hs]
    exact runWord_illegalLeaves hd _
  · rw [step_wait_running hr]
    exact runWord_illegalLeaves hd _
  · rw [step_end_running hr]
    exact runWord_illegalLeaves hd _

/-- Settles O5: the same four ways for a word that decodes, a word left in `running`, and a block with none. -/
theorem stepRunsDecodedCommand : Obligations.StepRunsDecodedCommand := by
  refine ⟨fun s w i rest hs hd => ⟨?_, ?_⟩, fun s w e rest hs he => step_word_then_event hs w he rest,
    fun s w i rest hr hd => ⟨?_, ?_⟩, fun s rest hr => ⟨step_end_idle hr, step_wait_idle hr rest⟩⟩
  · rw [step_word_then_wait hs, runWord_ok hd]
  · rw [step_last_word hs, runWord_ok hd]
  · rw [step_wait_running hr, runWord_ok hd]
  · rw [step_end_running hr, runWord_ok hd]

/-- In ERROR only the exact word of `CLR` acts (rule R93). -/
theorem offer_error {s : State} (h : s.status = .error) (w : Word) :
    offer w s = if w = 0x00000003 then .next (clearError s) else .next s := by
  rw [offer, h]
  rfl

/-- Settles O7: `offer_error`, and what `clearError` leaves. -/
theorem errorStateAcceptsOnlyClr : Obligations.ErrorStateAcceptsOnlyClr := by
  intro s w rest hs
  have hoffer := offer_error (s := { s with port := rest }) hs w
  rw [step_write_word, hoffer]
  exact ⟨fun hw => if_neg hw, fun hw => ⟨_, if_pos hw, clearError_status _, clearError_errKind _, clearError_errCause _,
    clearError_errCh _, clearError_errPos _⟩⟩

end Sys2Proof.Machine
end

section
/-! SUPPORT. What each stage of a command writes (rules R44, R96): the frame of a stage is a list of banks, and the frames of a
command's stages lie within the command's row. -/

namespace Sys2Proof.Machine

open Claims (Bank SameOwn writtenBanks)

/-! ## Frames -/

/-- Of the banks only those in `bs` differ, and nothing of the model's own and no parameter does. -/
structure Writes (bs : List Bank) (s t : State) : Prop where
  banks : ∀ b, b ∉ bs → b.Same s t
  own : SameOwn s t

theorem Bank.same_trans {b : Bank} {s t u : State} (h : b.Same s t) (h' : b.Same t u) : b.Same s u := by
  cases b <;> grind [Bank.Same]

/-- The state `t` with every bank outside `bs`, the parameters and the model's own fields as in `s`. -/
def keepingOutside (bs : List Bank) (s t : State) : State :=
  { t with
    errKind := if .errorRecord ∈ bs then t.errKind else s.errKind
    errCause := if .errorRecord ∈ bs then t.errCause else s.errCause
    errCh := if .errorRecord ∈ bs then t.errCh else s.errCh
    errPos := if .errorRecord ∈ bs then t.errPos else s.errPos
    result := if .result ∈ bs then t.result else s.result
    cpos := if .cpos ∈ bs then t.cpos else s.cpos
    desc := if .desc ∈ bs then t.desc else s.desc
    img := if .img ∈ bs then t.img else s.img
    contLen := if .cont ∈ bs then t.contLen else s.contLen
    cont := if .cont ∈ bs then t.cont else s.cont
    resN := if .res ∈ bs then t.resN else s.resN
    res := if .res ∈ bs then t.res else s.res
    freq := if .freq ∈ bs then t.freq else s.freq
    len := if .len ∈ bs then t.len else s.len
    tbl := if .tbl ∈ bs then t.tbl else s.tbl
    payLen := if .pay ∈ bs then t.payLen else s.payLen
    pay := if .pay ∈ bs then t.pay else s.pay
    pkAcc := if .pk ∈ bs then t.pkAcc else s.pkAcc
    pkNb := if .pk ∈ bs then t.pkNb else s.pkNb
    upPos := if .up ∈ bs then t.upPos else s.upPos
    upBit := if .up ∈ bs then t.upBit else s.upBit
    trie := if .trie ∈ bs then t.trie else s.trie
    cfg := s.cfg, port := s.port, running := s.running, portData := s.portData, busyReads := s.busyReads }

namespace Writes
variable {bs bs' : List Bank} {s t u : State}

theorem refl (s : State) : Writes bs s s where
  banks b _ := by cases b <;> simp [Bank.Same]
  own := ⟨rfl, rfl, rfl, rfl, rfl⟩

theorem trans (h : Writes bs s t) (h' : Writes bs t u) : Writes bs s u where
  banks b hb := Bank.same_trans (h.banks b hb) (h'.banks b hb)
  own := by
    have := h.own
    have := h'.own
    grind [SameOwn]

theorem mono (h : Writes bs s t) (hsub : bs ⊆ bs') : Writes bs' s t := ⟨fun b hb => h.banks b (mt (@hsub b) hb), h.own⟩

/-- A state that is literally as before outside `bs`: for updates written out, the hypothesis holds by evaluation. -/
theorem of_eq (h : t = keepingOutside bs s t) : Writes bs s t where
  banks b hb := by
    rw [h]
    cases b <;> simp [Bank.Same, keepingOutside, hb]
  own := by
    rw [h]
    exact ⟨rfl, rfl, rfl, rfl, rfl⟩

/-- A stage that starts from `s` writes, besides what was written before, what it writes itself. -/
theorem stage {α : Type} {π : α → State} {r : Except Raise α} (h : Writes bs s t)
    (hr : Yields (fun a => Writes bs' t (π a)) r) (hsub : bs' ⊆ bs := by decide) : Yields (fun a => Writes bs s (π a)) r :=
  fun a ha => h.trans ((hr a ha).mono hsub)

/-- The same for an update that cannot fail. -/
theorem update (h : Writes bs s t) (hu : Writes bs' t u) (hsub : bs' ⊆ bs := by decide) : Writes bs s u :=
  h.trans (hu.mono hsub)

end Writes

/-! ## Operations that cannot fail -/

namespace Writes
variable (s : State)

theorem setCurch (c : BitVec 2) : Writes [] s { s with curch := c } := of_eq rfl

theorem setResult (v : BitVec 32) : Writes [.result] s { s with result := v } := of_eq rfl

theorem setCpos (n : BitVec 64) : Writes [.cpos] s { s with cpos := n } := of_eq rfl

theorem setDesc (d : Desc) : Writes [.desc] s { s with desc := d } := of_eq rfl

theorem setImg (m : Memory) : Writes [.img] s { s with img := m } := of_eq rfl

theorem setCont (n : BitVec 64) (m : Memory) : Writes [.cont] s { s with contLen := n, cont := m } := of_eq rfl

theorem setRes (n : BitVec 64) (m : Memory) : Writes [.res] s { s with resN := n, res := m } := of_eq rfl

theorem setFreq (v : Vector (BitVec 64) 256) : Writes [.freq] s { s with freq := v } := of_eq rfl

theorem setLen (v : Vector (BitVec 8) 256) : Writes [.len] s { s with len := v } := of_eq rfl

theorem setTbl (t : Table) : Writes [.tbl] s { s with tbl := t } := of_eq rfl

theorem setPay (n : BitVec 64) (m : Memory) : Writes [.pay] s { s with payLen := n, pay := m } := of_eq rfl

theorem setUp (p : BitVec 64) (b : BitVec 3) : Writes [.up] s { s with upPos := p, upBit := b } := of_eq rfl

theorem setTrie (t : List TrieNode) : Writes [.trie] s { s with trie := t } := of_eq rfl

theorem setPayAndPk (n : BitVec 64) (m : Memory) (a : BitVec 8) (b : BitVec 3) :
    Writes [.pay, .pk] s { s with payLen := n, pay := m, pkAcc := a, pkNb := b } := of_eq rfl

theorem resetEphemeral : Writes [.res, .freq, .len, .tbl, .pay, .pk, .up, .trie] s (resetEphemeral s) := of_eq rfl

theorem clearError : Writes (writtenBanks .clr) s (clearError s) := of_eq rfl

theorem complete : Writes [] s (complete s) := of_eq rfl

theorem filterForward (d : Dims) (c : Nat) : Writes [.res] s (filterForward d c s) := setRes s _ _

theorem filterInverse (d : Dims) (c : Nat) : Writes [.img] s (filterInverse d c s) := setImg s _

theorem histogram : Writes [.freq] s (histogram s) := by
  rw [Machine.histogram]
  exact setFreq s _

theorem buildLengths : Writes [.len] s (buildLengths s) := by
  rw [Machine.buildLengths]
  exact setLen s _

theorem buildTrie : Writes [.trie] s (buildTrie s) := setTrie s _

theorem packInit : Writes [.pay, .pk] s (packInit s) := setPayAndPk s 0 s.pay 0 0

theorem unpackInit : Writes [.up] s (unpackInit s) := setUp s 0 0

theorem closeContainer : Writes [.cont] s (closeContainer s) := setCont s s.cpos s.cont

end Writes

/-! ## Stages -/

section
variable (s : State)

theorem buildTable_writes : Yields (Writes [.tbl] s) (buildTable s) := .unless (.ok (.setTbl s _))

theorem filtFwdBody_writes (c : Byte) :
    Yields (Writes [.res] s) (filtFwdBody c { s with curch := c.setWidth 2 }) :=
  .after_check fun d => .after_check fun _ => .after_check fun _ =>
    .ok (((Writes.refl s).update (.setCurch s _)).update (.filterForward _ d _))

theorem filtInvBody_writes (c : Byte) :
    Yields (Writes [.img] s) (filtInvBody c { s with curch := c.setWidth 2 }) :=
  .after_check fun _ => .after_check fun d => .after_check fun _ => .after_check fun _ =>
    .ok (((Writes.refl s).update (.setCurch s _)).update (.filterInverse _ d _))

theorem packFin_writes : Yields (Writes [.pay, .pk] s) (packFin s) := by
  intro t ht
  rw [packFin_frame ht]
  exact .setPayAndPk s _ _ _ _

theorem putSymbol_writes (v : Byte) : Yields (Writes [.pay, .pk] s) (putSymbol v s) := by
  intro t ht
  rw [putSymbol_frame ht]
  exact .setPayAndPk s _ _ _ _

theorem putSymbols_writes (vs : List Byte) : Yields (Writes [.pay, .pk] s) (putSymbols vs s) := by
  induction vs generalizing s with
  | nil => exact .ok (.refl s)
  | cons v vs ih => rw [putSymbols_cons]; exact (putSymbol_writes s v).bind fun t h => h.stage (ih t)

theorem packChannel_writes : Yields (Writes [.pay, .pk] s) (packChannel s) :=
  ((Writes.packInit s).stage (putSymbols_writes _ _)).bind fun t h => h.stage (packFin_writes t)

theorem getBit_writes (k : Nat) : Yields (fun p => Writes [.up] s p.2) (getBit k s) := by
  rintro ⟨b, t⟩ ht
  obtain ⟨-, -, hframe, -⟩ := getBit_inv ht
  rw [hframe]
  exact .setUp s _ _

theorem decodeSymbol_writes (k : Nat) : Yields (fun p => Writes [.up] s p.2) (decodeSymbol k s) := by
  rintro ⟨v, t⟩ ht
  rw [decodeFrom_frame ht]
  exact .setUp s _ _

theorem decodeSymbols_writes (n k : Nat) : Yields (Writes [.up, .res] s) (decodeSymbols n k s) := by
  induction n generalizing s k with
  | zero => exact .ok (.refl s)
  | succ n ih =>
    rw [decodeSymbols_succ]
    exact ((Writes.refl s).stage (decodeSymbol_writes s k)).bind fun p h =>
      (h.update (.setRes p.2 p.2.resN _)).stage (ih _ _)

theorem decodeChannel_writes : Yields (Writes [.up, .res] s) (decodeChannel s) :=
  ((Writes.refl s).update (.unpackInit s)).stage (decodeSymbols_writes _ _ _)

theorem contRead_writes (n : Nat) (c : Cause) : Yields (fun p => Writes [.cpos] s p.2) (contRead n c s) :=
  .unless (.ok (.setCpos s _))

theorem contWrite_writes (bs : List Byte) : Yields (Writes [.cont, .cpos] s) (contWrite bs s) :=
  .unless (.ok (.of_eq rfl))

theorem writeHeader_writes : Yields (Writes [.cont, .cpos] s) (writeHeader s) :=
  (((Writes.refl s).update (.setCpos s 0)).stage (contWrite_writes _ _)).bind fun s h =>
    (h.stage (contWrite_writes s _)).bind fun s h => (h.stage (contWrite_writes s _)).bind fun s h =>
      (h.stage (contWrite_writes s _)).bind fun s h => h.stage (contWrite_writes s _)

theorem writeChannel_writes : Yields (Writes [.cont, .cpos] s) (writeChannel s) :=
  .unless <| (contWrite_writes s _).bind fun s h => (h.stage (contWrite_writes s _)).bind fun s h =>
    h.stage (contWrite_writes s _)

theorem readHeaderFields_writes : Yields (fun p => Writes [.cpos] s p.2) (readHeaderFields s) :=
  ((Writes.setCpos s 0).stage (contRead_writes _ _ _)).bind fun _ h => .unless <|
    (h.stage (contRead_writes _ _ _)).bind fun _ h => (h.stage (contRead_writes _ _ _)).bind fun _ h =>
      (h.stage (contRead_writes _ _ _)).bind fun _ h => (h.stage (contRead_writes _ _ _)).bind fun _ h => .ok h

theorem acceptHeader_writes (hd : Header) : Yields (Writes [.desc] s) (acceptHeader hd s) :=
  .unless <| .unless <| .unless <| .unless <| .ok (.setDesc s _)

theorem readHeader_writes : Yields (Writes [.desc, .cpos] s) (readHeader s) :=
  ((Writes.refl s).stage (readHeaderFields_writes s)).bind fun p h => h.stage (acceptHeader_writes p.2 p.1)

theorem storePayload_writes (bs : List Byte) : Yields (Writes [.pay] s) (storePayload bs s) := .unless (.ok (.setPay s _ _))

theorem readChannel_writes : Yields (Writes [.len, .pay, .cpos] s) (readChannel s) :=
  ((Writes.refl s).stage (contRead_writes s _ _)).bind fun p h =>
    ((h.update (.setLen p.2 _)).stage (contRead_writes _ _ _)).bind fun _ h =>
      (h.stage (contRead_writes _ _ _)).bind fun p h => h.stage (storePayload_writes p.2 _)

theorem forChannels_writes {bs : List Bank} {stage : Nat → State → Except Raise State}
    (hstage : ∀ c s, Yields (Writes bs s) (stage c s)) (cs : List Nat) :
    Yields (Writes bs s) (forChannels stage cs s) := by
  induction cs generalizing s with
  | nil => exact .ok (.refl s)
  | cons c cs ih =>
    rw [forChannels_cons]
    exact (hstage c s).bind fun t h => h.stage (ih t) (List.Subset.refl bs)

theorem compressChannel_writes (d : Dims) (c : Nat) : Yields (Writes (writtenBanks .compress) s) (compressChannel d c s) :=
  .after_check fun _ =>
    have h := ((((Writes.refl s).update (.setCurch s _)).update (.filterForward _ d c)).update (.histogram _)).update
      (.buildLengths _)
    (h.stage (buildTable_writes _)).bind fun t h => (h.stage (packChannel_writes t)).bind fun t h =>
      h.stage (writeChannel_writes t)

theorem compressBody_writes : Yields (Writes (writtenBanks .compress) s) (compressBody s) :=
  .after_check fun d => (((Writes.refl s).update (.resetEphemeral s)).stage (writeHeader_writes _)).bind fun t h =>
    (h.stage (forChannels_writes t (fun c u => compressChannel_writes u d c) _)).bind fun t h =>
      .ok ((h.update (.closeContainer t)).update (.resetEphemeral _))

theorem decompressChannel_writes (d : Dims) (c : Nat) :
    Yields (Writes (writtenBanks .decompress) s) (decompressChannel d c s) :=
  (((Writes.refl s).update (.setCurch s _)).stage (readChannel_writes _)).bind fun t h =>
    (h.stage (buildTable_writes t)).bind fun t h => .after_check fun _ =>
      (((h.update (.buildTrie t)).update (.setRes _ _ _)).stage (decodeChannel_writes _)).bind fun t h =>
        .ok (h.update (.filterInverse t d c))

theorem decompressBody_writes : Yields (Writes (writtenBanks .decompress) s) (decompressBody s) :=
  .after_check fun _ => (((Writes.refl s).update (.resetEphemeral s)).stage (readHeader_writes _)).bind fun t h =>
    (h.stage (forChannels_writes t (fun c u => decompressChannel_writes u t.desc.dims c) _)).bind fun u h =>
      .ok (h.update (.resetEphemeral u))

end

/-! ## Commands -/

/-- A command that does not end in ERROR has completed, and so has written what its body wrote. -/
theorem endCommand_writes {bs : List Bank} {s : State} {r : Except Raise State} (hr : Yields (Writes bs s) r)
    (cls : ErrClass) :
    LeadsTo (fun t => t.status ≠ .error → Writes bs s t) (.next (endCommand cls s r)) := by
  refine .next fun hs => ?_
  cases r with
  | error e => exact absurd (raise_status cls e s) hs
  | ok t => exact (hr t rfl).trans ((Writes.complete t).mono (List.nil_subset bs))

theorem complete_writes {bs : List Bank} {s t : State} (h : Writes bs s t) :
    LeadsTo (fun t => t.status ≠ .error → Writes bs s t) (.next (complete t)) :=
  endCommand_writes (.ok h) .e

theorem exec_writes (i : Instr) (s : State) :
    LeadsTo (fun t => t.status ≠ .error → Writes (writtenBanks i) s t) (exec i s) := by
  cases i with
  | nop => exact complete_writes (.refl s)
  | compress => exact endCommand_writes (compressBody_writes s) _
  | decompress => exact endCommand_writes (decompressBody_writes s) _
  | clr => exact .next fun _ => .clearError s
  | filtFwd c => exact endCommand_writes (filtFwdBody_writes s c) _
  | filtInv c => exact endCommand_writes (filtInvBody_writes s c) _
  | hist => exact endCommand_writes (.after_check fun _ => .ok (.histogram s)) _
  | huff => exact complete_writes (.buildLengths s)
  | canon => exact endCommand_writes (buildTable_writes s) _
  | pkInit => exact complete_writes (.packInit s)
  | pkPut v => exact endCommand_writes (putSymbol_writes s v) _
  | pkFin => exact endCommand_writes (packFin_writes s) _
  | pack => exact endCommand_writes (.after_check fun _ => packChannel_writes s) _
  | upInit => exact complete_writes (.unpackInit s)
  | upBit =>
    exact endCommand_writes (.after_check fun _ => ((Writes.refl s).stage (getBit_writes s 0)).bind fun p h =>
      .ok (h.update (.setResult p.2 _))) _
  | trie => exact complete_writes (.buildTrie s)
  | trSym =>
    exact endCommand_writes (.after_check fun _ => ((Writes.refl s).stage (decodeSymbol_writes s 0)).bind fun p h =>
      .ok (h.update (.setResult p.2 _))) _
  | dec => exact endCommand_writes (.after_check fun _ => .after_check fun _ => decodeChannel_writes s) _
  | hdrWr =>
    exact endCommand_writes (.after_check fun _ => (writeHeader_writes s).bind fun t h =>
      .ok (h.update (.closeContainer t))) _
  | chnWr =>
    exact endCommand_writes (.after_check fun _ => (writeChannel_writes s).bind fun t h =>
      .ok (h.update (.closeContainer t))) _
  | hdrRd => exact endCommand_writes (.after_check fun _ => readHeader_writes s) _
  | chnRd => exact endCommand_writes (.after_check fun _ => readChannel_writes s) _

/-- Settles O20: `exec_writes`. -/
theorem commandsWriteOnlyTheirBanks : Obligations.CommandsWriteOnlyTheirBanks := by
  intro i s t ht hs
  have h := exec_writes i s t ht hs
  exact ⟨h.banks, h.own⟩

end Sys2Proof.Machine
end

section
/-! SUPPORT. The row filters (rules R120 to R122): their elements, and that each undoes the other. -/

namespace Sys2Proof.Machine

/-! ## The elements of a filtered row -/

section
variable (prev : Byte) (row : List Byte)

@[simp] theorem fwdFrom_length : (fwdFrom prev row).length = row.length := by
  induction row generalizing prev with
  | nil => rfl
  | cons x xs ih => simp [fwdFrom, ih]

@[simp] theorem invFrom_length : (invFrom prev row).length = row.length := by
  induction row generalizing prev with
  | nil => rfl
  | cons r rs ih => simp [invFrom, ih]

@[simp] theorem fwdRow_length : (fwdRow row).length = row.length := fwdFrom_length 0 row

@[simp] theorem invRow_length : (invRow row).length = row.length := invFrom_length 0 row

/-- The predictor of a sample is its left neighbour in the original row (rule R120). -/
theorem fwdFrom_getD {x : Nat} (h : x < row.length) :
    (fwdFrom prev row).getD x 0 = row.getD x 0 - (prev :: row).getD x 0 := by
  induction row generalizing prev x with
  | nil => simp at h
  | cons s ss ih =>
    cases x with
    | zero => rfl
    | succ x => simpa [fwdFrom] using ih s (Nat.lt_of_succ_lt_succ h)

/-- The predictor of a sample is the value just reconstructed (rule R121). -/
theorem invFrom_getD {x : Nat} (h : x < row.length) :
    (invFrom prev row).getD x 0 = (prev :: invFrom prev row).getD x 0 + row.getD x 0 := by
  induction row generalizing prev x with
  | nil => simp at h
  | cons r rs ih =>
    cases x with
    | zero => rfl
    | succ x => simpa [invFrom] using ih (prev + r) (Nat.lt_of_succ_lt_succ h)

/-- The inverse is a running sum modulo 256 (rule R121). -/
theorem invFrom_getD_toNat {x : Nat} (h : x < row.length) :
    ((invFrom prev row).getD x 0).toNat = (prev.toNat + ((row.take (x + 1)).map BitVec.toNat).sum) % 256 := by
  induction row generalizing prev x with
  | nil => simp at h
  | cons r rs ih =>
    cases x with
    | zero => simp [invFrom, BitVec.toNat_add]
    | succ x =>
      have hx := ih (prev + r) (Nat.lt_of_succ_lt_succ h)
      simpa [invFrom, BitVec.toNat_add, Nat.add_assoc] using hx

end

theorem fwdRow_getD {row : List Byte} {x : Nat} (h : x < row.length) :
    (fwdRow row).getD x 0 = if x = 0 then row.getD 0 0 else row.getD x 0 - row.getD (x - 1) 0 := by
  rw [fwdRow, fwdFrom_getD 0 row h]
  cases x <;> simp

theorem invRow_getD {row : List Byte} {x : Nat} (h : x < row.length) :
    (invRow row).getD x 0 = if x = 0 then row.getD 0 0 else (invRow row).getD (x - 1) 0 + row.getD x 0 := by
  rw [invRow, invFrom_getD 0 row h]
  cases x <;> simp

theorem invRow_getD_toNat {row : List Byte} {x : Nat} (h : x < row.length) :
    ((invRow row).getD x 0).toNat = ((row.take (x + 1)).map BitVec.toNat).sum % 256 := by
  rw [invRow, invFrom_getD_toNat 0 row h]
  simp

/-! ## Bijection -/

theorem invFrom_fwdFrom (prev : Byte) (row : List Byte) : invFrom prev (fwdFrom prev row) = row := by
  induction row generalizing prev with
  | nil => rfl
  | cons x xs ih => rw [fwdFrom, invFrom, add_sub_cancel, ih]

theorem fwdFrom_invFrom (prev : Byte) (row : List Byte) : fwdFrom prev (invFrom prev row) = row := by
  induction row generalizing prev with
  | nil => rfl
  | cons r rs ih => rw [invFrom, fwdFrom, add_sub_cancel_left, ih]

/-- Settles O22: `fwdRow_getD`, read as numbers; the worked example by evaluation. -/
theorem forwardRowIsDifferences : Obligations.ForwardRowIsDifferences := by
  refine ⟨fun row => ⟨fwdRow_length row, fun x hx => ?_⟩, rfl⟩
  rw [fwdRow_getD hx]
  split
  · rfl
  · have hleft := (row.getD (x - 1) 0).isLt
    rw [BitVec.toNat_sub]
    congr 1
    omega

/-- Settles O23: `invRow_getD_toNat` and `invRow_getD`; the worked example by evaluation. -/
theorem inverseRowIsRunningSum : Obligations.InverseRowIsRunningSum :=
  ⟨fun row => ⟨invRow_length row, fun _ hx => ⟨invRow_getD_toNat hx, invRow_getD hx⟩⟩, rfl⟩

/-- Settles O24: `invFrom_fwdFrom` and `fwdFrom_invFrom` from the predictor 0. -/
theorem filterIsBijective : Obligations.FilterIsBijective :=
  fun row => ⟨invFrom_fwdFrom 0 row, fwdFrom_invFrom 0 row, fwdRow_length row, invRow_length row⟩

end Sys2Proof.Machine
end

section
/-! SUPPORT. The filter commands (rules R123, R124): the residuals and the samples of a channel by their place in the image, and
what the body of each command yields. -/

namespace Sys2Proof.Machine

/-! ## A channel as the concatenation of its rows -/

/-- Rows of width `w`, concatenated, are one sequence over the index `y * w + x` (rule R125). -/
theorem flatMap_rows_eq_map {α : Type} (f : Nat → α) (h w : Nat) :
    ((List.range h).flatMap fun y => (List.range w).map fun x => f (y * w + x)) = (List.range (h * w)).map f := by
  induction h with
  | zero => simp
  | succ h ih => simp [List.range_succ, ih, Nat.succ_mul, List.range_add, Function.comp_def]

/-- The place of a sample in its channel is below the number of samples. -/
theorem rowIndex_lt {w h y x : Nat} (hy : y < h) (hx : x < w) : y * w + x < h * w := by
  have := Nat.mul_le_mul_right w hy
  rw [Nat.succ_mul] at this
  omega

/-- The residual of the sample at place `i` of channel `c` (rule R123): the first column has no predictor. -/
def residualAt (d : Dims) (c : Nat) (m : Memory) (i : Nat) : Byte :=
  if i % d.w = 0 then m.read (i * d.c + c) else m.read (i * d.c + c) - m.read ((i - 1) * d.c + c)

theorem residualAt_row {d : Dims} {x : Nat} (hx : x < d.w) (c : Nat) (m : Memory) (y : Nat) :
    residualAt d c m (y * d.w + x) =
      if x = 0 then m.read (d.sample c y x) else m.read (d.sample c y x) - m.read (d.sample c y (x - 1)) := by
  rw [residualAt, Nat.mul_add_mod', Nat.mod_eq_of_lt hx]
  split
  · rfl
  · next h0 => rw [Nat.add_sub_assoc (Nat.one_le_iff_ne_zero.2 h0)]; rfl

theorem fwdRow_imageRow (d : Dims) (c y : Nat) (m : Memory) :
    fwdRow (imageRow d c y m) = (List.range d.w).map fun x => residualAt d c m (y * d.w + x) := by
  refine List.ext_getElem (by simp [imageRow]) fun x h _ => ?_
  have hx : x < d.w := by simpa [imageRow] using h
  rw [← List.getD_eq_getElem _ 0 h, fwdRow_getD (by simpa [imageRow] using hx), List.getElem_map, List.getElem_range,
    residualAt_row hx]
  split
  · next h0 => subst h0; simp [imageRow, hx]
  · simp [imageRow, hx, Nat.lt_of_le_of_lt (Nat.sub_le x 1) hx]

theorem channelResiduals_eq_map (d : Dims) (c : Nat) (m : Memory) :
    channelResiduals d c m = (List.range (d.h * d.w)).map (residualAt d c m) := by
  simp only [channelResiduals, fwdRow_imageRow, flatMap_rows_eq_map]

@[simp] theorem channelResiduals_length (d : Dims) (c : Nat) (m : Memory) : (channelResiduals d c m).length = d.n := by
  rw [channelResiduals_eq_map, List.length_map, List.length_range, Dims.n, Nat.mul_comm]

/-! ## `FilterForward` and `FilterInverse` -/

section
variable (d : Dims) (c : Nat) (s : State)

theorem filterForward_res_read {y x : Nat} (hy : y < d.h) (hx : x < d.w) :
    (filterForward d c s).res.read (y * d.w + x) =
      if x = 0 then s.img.read (d.sample c y x)
      else s.img.read (d.sample c y x) - s.img.read (d.sample c y (x - 1)) := by
  have hi := rowIndex_lt hy hx
  rw [← residualAt_row hx, filterForward, Memory.read_writeBytes, channelResiduals_eq_map]
  simp [hi]

theorem filterForward_res_read_above {a : Nat} (ha : d.n ≤ a) : (filterForward d c s).res.read a = s.res.read a :=
  Memory.read_writeBytes_outside _ _ (.inr (by simpa using ha))

/-- The cells that `FilterInverse(c)` writes are the samples of channel `c`, in order. -/
theorem inverseSamples_cells (m : Memory) :
    (inverseSamples d c m).map Prod.fst = (List.range (d.h * d.w)).map fun i => i * d.c + c := by
  have hrow (y : Nat) :
      (inverseRow d c m y).map Prod.fst = (List.range d.w).map fun x => (y * d.w + x) * d.c + c := by
    have hcols : List.range d.w = (invRow (m.readBytes (y * d.w) d.w)).zipIdx.map Prod.snd := by
      simp [List.range_eq_range']
    rw [hcols, List.map_map, inverseRow, List.map_map]
    rfl
  simp only [inverseSamples, List.map_flatMap, hrow, flatMap_rows_eq_map fun i => i * d.c + c]

theorem inverseSamples_cells_nodup {d : Dims} (hc : 0 < d.c) (m : Memory) :
    ((inverseSamples d c m).map Prod.fst).Nodup := by
  rw [inverseSamples_cells]
  exact List.nodup_range.map fun i j h => Nat.eq_of_mul_eq_mul_right hc (Nat.add_right_cancel h)

theorem mem_inverseSamples {y x : Nat} (hy : y < d.h) (hx : x < d.w) (m : Memory) :
    (d.sample c y x, (invRow (m.readBytes (y * d.w) d.w)).getD x 0) ∈ inverseSamples d c m := by
  refine List.mem_flatMap.2 ⟨y, List.mem_range.2 hy, List.mem_map.2 ⟨(_, x), ?_, rfl⟩⟩
  simp [List.mk_mem_zipIdx_iff_getElem?, hx]

theorem filterInverse_img_read {d : Dims} (hc : 0 < d.c) {y x : Nat} (hy : y < d.h) (hx : x < d.w) :
    (filterInverse d c s).img.read (d.sample c y x) = (invRow (s.res.readBytes (y * d.w) d.w)).getD x 0 :=
  Memory.read_writeAll_mem _ _ (inverseSamples_cells_nodup c hc _) (mem_inverseSamples d c hy hx _)

/-- The inverse row of the residual bank, as a sum of residuals (rule R124). -/
theorem invRow_readBytes_toNat {w x : Nat} (hx : x < w) (m : Memory) (a : Nat) :
    ((invRow (m.readBytes a w)).getD x 0).toNat =
      ((List.range (x + 1)).map fun k => (m.read (a + k)).toNat).sum % 256 := by
  rw [invRow_getD_toNat (by simpa using hx), Memory.readBytes, ← List.map_take, List.take_range,
    Nat.min_eq_left hx, List.map_map]
  rfl

theorem filterInverse_img_read_other {a : Nat} (ha : ∀ y x, y < d.h → x < d.w → a ≠ d.sample c y x) :
    (filterInverse d c s).img.read a = s.img.read a := by
  refine Memory.read_writeAll_outside _ _ fun p hp hpa => ?_
  obtain ⟨y, hy, hrow⟩ := List.mem_flatMap.1 hp
  obtain ⟨⟨v, x⟩, hq, rfl⟩ := List.mem_map.1 hrow
  have hx : x < d.w := by simpa using List.snd_lt_of_mem_zipIdx hq
  exact ha y x (List.mem_range.1 hy) hx hpa.symm

end

/-! ## The commands -/

section
variable {α : Type}

@[simp] theorem ok_bind {β : Type} (a : α) (f : α → Except Raise β) : (Except.ok a >>= f) = f a := rfl

/-- A check that raises `e` in front of a stage. -/
theorem check_bind (p : Prop) [Decidable p] (e : Raise) (f : Unit → Except Raise α) :
    ((if p then .error e else .ok ()) >>= f) = if p then .error e else f () := by
  split <;> rfl

end

section
variable (c : Byte) (s : State)

theorem checkChannel_eq (d : Dims) :
    checkChannel d c s = if d.c ≤ c.toNat then .error ⟨.badChannel, c.toNat, s.curch⟩ else .ok () := rfl

theorem checkResSize_eq (d : Dims) :
    checkResSize d s = if s.resN.toNat ≠ d.n then .error ⟨.sizeMismatch, s.resN.toNat, s.curch⟩ else .ok () := rfl

/-- `FILT.FWD c`: the first check that fails, in the order of rule R123, or the residuals. -/
theorem exec_filtFwd_eq :
    exec (.filtFwd c) s = .next (endCommand .e s (
      match imageFault s with
      | some (k, p) => .error ⟨k, p, c.setWidth 2⟩
      | none =>
        if s.desc.channels.toNat ≤ c.toNat then .error ⟨.badChannel, c.toNat, c.setWidth 2⟩
        else if overCap s.cfg.resCap (s.desc.width.toNat * s.desc.height.toNat) then
          .error ⟨.capRes, s.desc.width.toNat * s.desc.height.toNat, c.setWidth 2⟩
        else .ok (filterForward s.desc.dims c.toNat { s with curch := c.setWidth 2 }))) := by
  have hcurch : imageFault { s with curch := c.setWidth 2 } = imageFault s := rfl
  rw [exec, execFiltFwd, filtFwdBody, validateImage_eq, hcurch]
  cases imageFault s with
  | some f => rfl
  | none =>
    simp only [ok_bind, checkChannel_eq, checkResOut_eq, check_bind]
    rfl

/-- `FILT.INV c` with `RES` within its capacity: the first check that fails, in the order of rule R124, or the samples. -/
theorem exec_filtInv_eq (hres : overCap s.cfg.resCap s.resN.toNat = false) :
    exec (.filtInv c) s = .next (endCommand .iw s (
      match imageFault s with
      | some (k, p) => .error ⟨k, p, c.setWidth 2⟩
      | none =>
        if s.desc.channels.toNat ≤ c.toNat then .error ⟨.badChannel, c.toNat, c.setWidth 2⟩
        else if s.resN.toNat ≠ s.desc.width.toNat * s.desc.height.toNat then
          .error ⟨.sizeMismatch, s.resN.toNat, c.setWidth 2⟩
        else .ok (filterInverse s.desc.dims c.toNat { s with curch := c.setWidth 2 }))) := by
  have hcurch : imageFault { s with curch := c.setWidth 2 } = imageFault s := rfl
  rw [exec, execFiltInv, filtInvBody, checkRes_within (s := { s with curch := c.setWidth 2 }) hres, ok_bind,
    validateImage_eq, hcurch]
  cases imageFault s with
  | some f => rfl
  | none =>
    simp only [ok_bind, checkChannel_eq, checkResSize_eq, check_bind]
    rfl

end

/-- The number of samples of a channel fits the width of `RES_N` (rule R47). -/
theorem dims_n_lt (d : Desc) : d.dims.n < 2 ^ 64 :=
  calc d.dims.n < 2 ^ 32 * 2 ^ 32 := Nat.mul_lt_mul'' d.width.isLt d.height.isLt
    _ = 2 ^ 64 := by norm_num

/-! ## The obligations on the filter commands -/

/-- Settles O25: no check of `exec_filtFwd_eq` fails, and the residuals are those of `filterForward_res_read`. -/
theorem filtFwdWritesTheResiduals : Obligations.FiltFwdWritesTheResiduals := by
  intro c s himg hc hcap
  refine ⟨complete (filterForward s.desc.dims c.toNat { s with curch := c.setWidth 2 }), ?_, rfl, rfl, ?_,
    fun y x hy hx => ?_, fun a ha => ?_, rfl⟩
  · simp [exec_filtFwd_eq, himg, Nat.not_le.2 hc, hcap]
  · exact Nat.mod_eq_of_lt (dims_n_lt s.desc)
  · exact filterForward_res_read s.desc.dims c.toNat _ hy hx
  · exact filterForward_res_read_above s.desc.dims c.toNat _ ha

/-- Settles O26: no check of `exec_filtInv_eq` fails, and the samples are those of `filterInverse_img_read`. -/
theorem filtInvWritesTheSamples : Obligations.FiltInvWritesTheSamples := by
  intro c s hres himg hc hn
  have hpos : 0 < s.desc.dims.c := Nat.zero_lt_of_lt hc
  refine ⟨complete (filterInverse s.desc.dims c.toNat { s with curch := c.setWidth 2 }), ?_, rfl, rfl,
    fun y x hy hx => ?_, fun a ha => ?_, rfl⟩
  · simp [exec_filtInv_eq c s hres, himg, Nat.not_le.2 hc, hn]
  · have hread := filterInverse_img_read c.toNat { s with curch := c.setWidth 2 } hpos hy hx
    exact (congrArg BitVec.toNat hread).trans (invRow_readBytes_toNat hx _ _)
  · exact filterInverse_img_read_other s.desc.dims c.toNat _ ha

/-- Settles O27: the order of the checks in `exec_filtFwd_eq` and `exec_filtInv_eq`. -/
theorem filterCommandsRejectInOrder : Obligations.FilterCommandsRejectInOrder := by
  intro c s
  refine ⟨fun k p himg => ?_, fun himg hc => ?_, fun himg hc hcap => ?_, fun hres =>
    ⟨fun k p himg => ?_, fun himg hc => ?_, fun himg hc hn => ?_⟩⟩
  · simp [exec_filtFwd_eq, himg]
  · simp [exec_filtFwd_eq, himg, hc]
  · simp [exec_filtFwd_eq, himg, Nat.not_le.2 hc, hcap]
  · simp [exec_filtInv_eq c s hres, himg]
  · simp [exec_filtInv_eq c s hres, himg, hc]
  · simp [exec_filtInv_eq c s hres, himg, Nat.not_le.2 hc, hn]

end Sys2Proof.Machine
end

section
/-! SUPPORT. The histogram (rules R130, R131): a counter is the count of its byte, and counting a byte in a sequence is counting
the indices that hold it. -/

namespace Sys2Proof.Machine

/-! ## Counting bytes -/

theorem eq_ofNat_iff_toNat_eq (b : Byte) (v : Fin 256) : b = BitVec.ofNat 8 v.val ↔ b.toNat = v.val := by
  rw [← BitVec.toNat_inj, BitVec.toNat_ofNat, Nat.mod_eq_of_lt v.isLt]

/-- The count of a byte in a listed function is the number of indices that the function takes to it. -/
theorem count_map_range (f : Nat → Byte) (n : Nat) (v : Fin 256) :
    ((List.range n).map f).count (BitVec.ofNat 8 v.val) = (List.range n).countP fun i => (f i).toNat = v.val := by
  rw [List.count, List.countP_map]
  refine List.countP_congr fun i _ => ?_
  rw [Function.comp_apply, beq_iff_eq, decide_eq_true_iff, eq_ofNat_iff_toNat_eq]

theorem map_getD_range (r : List Byte) : ((List.range r.length).map fun i => r.getD i 0) = r :=
  List.ext_getElem (by simp) fun i _ h => by simp [h]

/-- Every byte of the sequence is counted under exactly one value. -/
theorem sum_count_bytes (r : List Byte) : ∑ v : Fin 256, r.count (BitVec.ofNat 8 v.val) = r.length := by
  have hcount (v : Fin 256) : r.count (BitVec.ofNat 8 v.val) = (r.map BitVec.toFin).count v := by
    have hv : (BitVec.ofNat 8 v.val).toFin = v := Fin.ext (Nat.mod_eq_of_lt v.isLt)
    rw [← List.count_map_of_injective r _ fun _ _ => BitVec.eq_of_toFin_eq, hv]
  have hsum := Multiset.sum_count_eq_card (s := Finset.univ) (m := (r.map BitVec.toFin : Multiset (Fin 256)))
    fun v _ => Finset.mem_univ v
  simpa only [hcount, Multiset.coe_count, Multiset.coe_card, List.length_map] using hsum

/-! ## The counters -/

theorem histogramOf_getElem (r : List Byte) (v : Fin 256) :
    (histogramOf r)[v] = BitVec.ofNat 64 (r.count (BitVec.ofNat 8 v.val)) := by
  simp [histogramOf]

section
variable {r : List Byte} (hr : r.length < 2 ^ 64)
include hr

/-- No counter overflows (rule R131). -/
theorem histogramOf_getElem_toNat (v : Fin 256) :
    (histogramOf r)[v].toNat = r.count (BitVec.ofNat 8 v.val) := by
  rw [histogramOf_getElem, BitVec.toNat_ofNat, Nat.mod_eq_of_lt (List.count_le_length.trans_lt hr)]

theorem histogramOf_sum : ((histogramOf r).toList.map BitVec.toNat).sum = r.length := by
  calc ((histogramOf r).toList.map BitVec.toNat).sum
      = ∑ v : Fin 256, (BitVec.ofNat 64 (r.count (BitVec.ofNat 8 v.val))).toNat := by
        rw [histogramOf, Vector.toList_ofFn, List.map_ofFn, List.sum_ofFn]
        rfl
    _ = ∑ v : Fin 256, r.count (BitVec.ofNat 8 v.val) := by
        simp only [← histogramOf_getElem, histogramOf_getElem_toNat hr]
    _ = r.length := sum_count_bytes r

end

theorem histogramOf_perm {r r' : List Byte} (h : r.Perm r') : histogramOf r' = histogramOf r := by
  simp only [histogramOf, h.count_eq]

/-! ## The obligations on the histogram -/

/-- Settles O28: each counter is its byte's count (`histogramOf_getElem_toNat`), and a count is a count of indices. -/
theorem histogramCounts : Obligations.HistogramCounts := by
  intro r hr
  refine ⟨fun v => ?_, histogramOf_sum hr, fun v => ?_, ?_, fun r' h => histogramOf_perm h⟩
  · calc (histogramOf r)[v].toNat = r.count (BitVec.ofNat 8 v.val) := histogramOf_getElem_toNat hr v
      _ = ((List.range r.length).map fun i => r.getD i 0).count (BitVec.ofNat 8 v.val) := by rw [map_getD_range]
      _ = _ := count_map_range _ _ v
  · rw [histogramOf_getElem_toNat hr]
    exact List.count_le_length
  · rintro rfl v
    rw [histogramOf_getElem, List.count_nil]
    rfl

/-- Settles O29: the input check passes, and the counts of the residual bytes are counts of indices below `RES_N`. -/
theorem histCountsTheResiduals : Obligations.HistCountsTheResiduals := by
  intro s hcap
  refine ⟨complete (histogram s), ?_, rfl, rfl, fun v => ?_, ?_⟩
  · rw [exec, execHist, histBody, checkRes_within hcap]
    rfl
  · have hlen : s.resBytes.length < 2 ^ 64 := (Memory.readBytes_length _ _ _).trans_lt s.resN.isLt
    calc (histogramOf s.resBytes)[v].toNat = s.resBytes.count (BitVec.ofNat 8 v.val) := histogramOf_getElem_toNat hlen v
      _ = (List.range s.resN.toNat).countP fun i => (s.res.read (0 + i)).toNat = v.val := count_map_range _ _ v
      _ = _ := by simp only [Nat.zero_add]
  · rw [complete, histogram]

end Sys2Proof.Machine
end

section
/-! SUPPORT. The Huffman tree builder (rules R135 to R143): the merge loop extracts in the order of rule R136, the leaves of its
root are the used symbols, and the lengths written are their depths. -/

namespace Sys2Proof.Machine

open Claims (leaves usedCount MergeRun DepthOf)

/-! ## The extraction order (rule R136) -/

section
variable {a b c : HuffNode}

theorem before_iff : a.before b = true ↔ a.freq < b.freq ∨ a.freq = b.freq ∧ b.id < a.id := by
  simp [HuffNode.before]

theorem before_trans (hab : a.before b = true) (hbc : b.before c = true) : a.before c = true := by
  rw [before_iff] at *
  omega

/-- The order is total on nodes of different ids. -/
theorem before_of_not_before (hid : a.id ≠ b.id) (h : ¬ a.before b = true) : b.before a = true := by
  rw [before_iff] at *
  omega

end

/-! ## The heap -/

/-- A heap in extraction order, each node before every later one. -/
abbrev HeapOrdered (heap : List HuffNode) : Prop := heap.Pairwise fun a b => a.before b = true

theorem insertNode_perm (n : HuffNode) (heap : List HuffNode) : (insertNode n heap).Perm (n :: heap) := by
  induction heap with
  | nil => rfl
  | cons m rest ih =>
    rw [insertNode]
    split
    · rfl
    · exact (ih.cons m).trans (.swap n m rest)

theorem insertNode_ordered {n : HuffNode} {heap : List HuffNode} (h : HeapOrdered heap) (hid : ∀ m ∈ heap, n.id ≠ m.id) :
    HeapOrdered (insertNode n heap) := by
  induction heap with
  | nil => exact List.pairwise_singleton _ n
  | cons m rest ih =>
    obtain ⟨hm, hrest⟩ := List.pairwise_cons.1 h
    obtain ⟨hnm, hnrest⟩ := List.forall_mem_cons.1 hid
    rw [insertNode]
    split
    · next hlt => exact h.cons (List.forall_mem_cons.2 ⟨hlt, fun c hc => before_trans hlt (hm c hc)⟩)
    · next hge =>
      refine (ih hrest hnrest).cons fun c hc => ?_
      rcases List.mem_cons.1 ((insertNode_perm n rest).mem_iff.1 hc) with rfl | hc
      · exact before_of_not_before hnm hge
      · exact hm c hc

theorem heapOf_perm (ls : List HuffNode) : (heapOf ls).Perm ls := by
  induction ls with
  | nil => rfl
  | cons l ls ih => exact (insertNode_perm l (heapOf ls)).trans (ih.cons l)

theorem heapOf_ordered {ls : List HuffNode} (hid : (ls.map HuffNode.id).Nodup) : HeapOrdered (heapOf ls) := by
  induction ls with
  | nil => exact .nil
  | cons l ls ih =>
    obtain ⟨hl, hls⟩ := List.nodup_cons.1 hid
    exact insertNode_ordered (ih hls) fun m hm e => hl (e ▸ List.mem_map_of_mem ((heapOf_perm ls).mem_iff.1 hm))

/-! ## The merge loop (rule R137) -/

/-- A run of the merge loop depends only on the set of nodes in the heap (rule R136). -/
theorem mergeRun_perm {k : Nat} {heap heap' : List HuffNode} {root : HuffNode} (h : MergeRun k heap root)
    (hp : heap.Perm heap') : MergeRun k heap' root := by
  cases h with
  | done => exact List.singleton_perm.1 hp ▸ .done k root
  | merge _ _ rest a b _ hab ha hb next => exact .merge k heap' rest a b root (hp.symm.trans hab) ha hb next

/-- The heap before round `k`: in extraction order, and its ids below the one that the round gives out. -/
structure HeapBefore (k : Nat) (heap : List HuffNode) : Prop where
  ordered : HeapOrdered heap
  ids : ∀ m ∈ heap, m.id < 256 + k

theorem HeapBefore.merge {k : Nat} {a b : HuffNode} {rest : List HuffNode} (h : HeapBefore k (a :: b :: rest)) :
    HeapBefore (k + 1) (insertNode (.inner (a.freq + b.freq) (256 + k) a b) rest) where
  ordered := insertNode_ordered h.ordered.tail.tail fun m hm => (h.ids m (by simp [hm])).ne'
  ids m hm := by
    rcases List.mem_cons.1 ((insertNode_perm _ rest).mem_iff.1 hm) with rfl | hm
    · exact Nat.lt_succ_self (256 + k)
    · exact (h.ids m (by simp [hm])).trans (Nat.lt_succ_self _)

/-- The loop ends with one node, the root of a merge run. -/
theorem mergeLoop_run {fuel k : Nat} {heap : List HuffNode} (h : HeapBefore k heap) (hne : heap ≠ [])
    (hfuel : heap.length ≤ fuel + 1) : ∃ root, mergeLoop fuel k heap = [root] ∧ MergeRun k heap root := by
  induction fuel generalizing k heap with
  | zero =>
    obtain ⟨root, rfl⟩ := List.length_eq_one_iff.1 (hfuel.antisymm (List.length_pos_of_ne_nil hne))
    exact ⟨root, rfl, .done k root⟩
  | succ fuel ih =>
    match heap with
    | [root] => exact ⟨root, rfl, .done k root⟩
    | a :: b :: rest =>
      obtain ⟨ha, htail⟩ := List.pairwise_cons.1 h.ordered
      obtain ⟨hb, -⟩ := List.pairwise_cons.1 htail
      have hperm := insertNode_perm (.inner (a.freq + b.freq) (256 + k) a b) rest
      have hlen := hperm.length_eq
      obtain ⟨root, hloop, hrun⟩ := ih h.merge (List.ne_nil_of_length_eq_add_one hlen)
        (hlen.trans_le (Nat.le_of_succ_le_succ hfuel))
      exact ⟨root, hloop, .merge k _ rest a b root (.refl _) ha hb (mergeRun_perm hrun hperm)⟩

/-! ## The leaves of a node and their depths (rule R139) -/

/-- The symbols of the leaves below a node. -/
def leafSymbols : HuffNode → List Nat
  | .leaf _ s => [s]
  | .inner _ _ l r => leafSymbols l ++ leafSymbols r

theorem leafDepths_map_fst (n : HuffNode) (d : Nat) : (n.leafDepths d).map Prod.fst = leafSymbols n := by
  induction n generalizing d with
  | leaf f s => rfl
  | inner f i l r ihl ihr => rw [HuffNode.leafDepths, List.map_append, ihl, ihr, leafSymbols]

theorem leafSymbols_length_pos (n : HuffNode) : 0 < (leafSymbols n).length := by
  induction n with
  | leaf f s => exact Nat.one_pos
  | inner f i l r ihl _ => rw [leafSymbols, List.length_append]; exact Nat.add_pos_left ihl _

theorem depthOf_of_mem_leafDepths {n : HuffNode} {v e d : Nat} (h : (v, e) ∈ n.leafDepths d) :
    ∃ j, e = d + j ∧ DepthOf n v j := by
  induction n generalizing d with
  | leaf f s =>
    obtain ⟨rfl, rfl⟩ : v = s ∧ e = d := by simpa [HuffNode.leafDepths] using h
    exact ⟨0, rfl, .leaf f v⟩
  | inner f i l r ihl ihr =>
    rcases List.mem_append.1 h with h | h
    · obtain ⟨j, rfl, hj⟩ := ihl h
      exact ⟨j + 1, by omega, .left f i v j l r hj⟩
    · obtain ⟨j, rfl, hj⟩ := ihr h
      exact ⟨j + 1, by omega, .right f i v j l r hj⟩

/-- A leaf's inner ancestors each have another leaf below them (rule R143). -/
theorem depthOf_lt_length {n : HuffNode} {v d : Nat} (h : DepthOf n v d) : d < (leafSymbols n).length := by
  induction h with
  | leaf f v => exact Nat.one_pos
  | left f i v d l r h ih =>
    have := leafSymbols_length_pos r
    rw [leafSymbols, List.length_append]; omega
  | right f i v d l r h ih =>
    have := leafSymbols_length_pos l
    rw [leafSymbols, List.length_append]; omega

theorem depthOf_pos {n : HuffNode} {v d : Nat} (hn : 2 ≤ (leafSymbols n).length) (h : DepthOf n v d) : 0 < d := by
  cases h with
  | leaf => simp [leafSymbols] at hn
  | left => exact Nat.succ_pos _
  | right => exact Nat.succ_pos _

/-- The leaves below a node of depth `d` share the Kraft weight of that depth (rule R142). The hypothesis keeps every depth
within `N`. -/
theorem sum_leafDepths_weight {N : Nat} (n : HuffNode) {d : Nat} (h : d + (leafSymbols n).length ≤ N + 1) :
    ((n.leafDepths d).map fun p => 2 ^ (N - p.2)).sum = 2 ^ (N - d) := by
  induction n generalizing d with
  | leaf f s => simp [HuffNode.leafDepths]
  | inner f i l r ihl ihr =>
    have hl := leafSymbols_length_pos l
    have hr := leafSymbols_length_pos r
    rw [leafSymbols, List.length_append] at h
    rw [HuffNode.leafDepths, List.map_append, List.sum_append, ihl (by omega), ihr (by omega), ← Nat.two_mul, ← pow_succ',
      show N - (d + 1) + 1 = N - d by omega]

/-- Merging moves leaves and loses none. -/
theorem mergeRun_leafSymbols {k : Nat} {heap : List HuffNode} {root : HuffNode} (h : MergeRun k heap root) :
    (leafSymbols root).Perm (heap.flatMap leafSymbols) := by
  induction h with
  | done k root => simp
  | merge k heap rest a b root hp ha hb next ih =>
    have hmerged : (HuffNode.inner (a.freq + b.freq) (256 + k) a b :: rest).flatMap leafSymbols =
        (a :: b :: rest).flatMap leafSymbols := by simp [leafSymbols]
    exact (ih.trans (.of_eq hmerged)).trans (hp.flatMap_right leafSymbols).symm

/-! ## The leaves of a frequency table (rule R135) -/

/-- The symbols with a nonzero frequency, ascending. -/
def usedSymbols (freq : Vector (BitVec 64) 256) : List (Fin 256) := (List.finRange 256).filter fun v => freq[v] ≠ 0

section
variable {freq : Vector (BitVec 64) 256} {v : Fin 256}

theorem mem_usedSymbols : v ∈ usedSymbols freq ↔ freq[v] ≠ 0 := by simp [usedSymbols]

theorem usedCount_eq_length : usedCount freq = (usedSymbols freq).length := List.countP_eq_length_filter

theorem usedCount_le : usedCount freq ≤ 256 := List.countP_le_length.trans_eq (List.length_finRange ..)

/-- The cases of rule R138 and of the merge loop. -/
theorem usedCount_cases (freq : Vector (BitVec 64) 256) : usedCount freq = 0 ∨ usedCount freq = 1 ∨ 2 ≤ usedCount freq := by
  omega

theorem leaves_eq_map_usedSymbols :
    leaves freq = (usedSymbols freq).map fun v => .leaf freq[v].toNat v.val := by
  rw [leaves, usedSymbols, ← List.filterMap_eq_map, List.filterMap_filter]
  exact List.filterMap_congr fun v _ => by simp

theorem leavesOf_eq_leaves : leavesOf freq = leaves freq := by
  have hentries : freq.toList.zipIdx = (List.finRange 256).map fun v => (freq[v], v.val) :=
    List.ext_getElem (by simp) fun i _ _ => by simp
  rw [leavesOf, leaves, hentries, List.filterMap_map]
  refine List.filterMap_congr fun v _ => ?_
  simp [← BitVec.toNat_inj]

@[simp] theorem leaves_length : (leaves freq).length = usedCount freq := by
  rw [leaves_eq_map_usedSymbols, List.length_map, usedCount_eq_length]

theorem leaves_map_id : (leaves freq).map HuffNode.id = (usedSymbols freq).map Fin.val := by
  rw [leaves_eq_map_usedSymbols, List.map_map]; rfl

theorem leaves_flatMap_leafSymbols : (leaves freq).flatMap leafSymbols = (usedSymbols freq).map Fin.val := by
  rw [leaves_eq_map_usedSymbols, List.flatMap_map]
  exact List.flatMap_pure_eq_map Fin.val _

theorem usedSymbols_val_nodup : ((usedSymbols freq).map Fin.val).Nodup :=
  ((List.nodup_finRange 256).filter _).map Fin.val_injective

/-- The heap that the merge loop starts from. -/
theorem heapOf_leaves : HeapBefore 0 (heapOf (leaves freq)) where
  ordered := heapOf_ordered (leaves_map_id ▸ usedSymbols_val_nodup)
  ids m hm := by
    have hmem := List.mem_map_of_mem (f := HuffNode.id) ((heapOf_perm (leaves freq)).mem_iff.1 hm)
    rw [leaves_map_id] at hmem
    obtain ⟨v, -, hv⟩ := List.mem_map.1 hmem
    exact hv ▸ v.isLt

/-! ## The lengths written (rules R138, R139) -/

/-- The pairs (symbol, length) of a frequency table. -/
def lengthPairs (freq : Vector (BitVec 64) 256) : List (Nat × Nat) := symbolLengths (leaves freq)

/-- No used symbol (rule R138 (b)). -/
theorem lengthPairs_of_zero (h : usedCount freq = 0) : lengthPairs freq = [] := by
  rw [lengthPairs, List.length_eq_zero_iff.1 (leaves_length.trans h), symbolLengths]

/-- A sole used symbol (rule R138 (a)). -/
theorem lengthPairs_of_one (h : usedCount freq = 1) : ∃ v : Fin 256, usedSymbols freq = [v] ∧ lengthPairs freq = [(v.val, 1)] := by
  obtain ⟨v, hv⟩ := List.length_eq_one_iff.1 (usedCount_eq_length.symm.trans h)
  refine ⟨v, hv, ?_⟩
  rw [lengthPairs, leaves_eq_map_usedSymbols, hv, List.map_singleton, symbolLengths, HuffNode.id]

/-- Two or more used symbols: the leaf depths of the root of a merge run (rules R137, R139). -/
theorem lengthPairs_of_two (h : 2 ≤ usedCount freq) :
    ∃ root, MergeRun 0 (leaves freq) root ∧ lengthPairs freq = root.leafDepths 0 := by
  have hperm := heapOf_perm (leaves freq)
  have hlen := hperm.length_eq.trans leaves_length
  obtain ⟨root, hloop, hrun⟩ := mergeLoop_run (fuel := (leaves freq).length) heapOf_leaves
    (List.ne_nil_of_length_pos (by omega)) (hperm.length_eq.le.trans (Nat.le_succ _))
  refine ⟨root, mergeRun_perm hrun hperm, ?_⟩
  rw [lengthPairs]
  match hls : leaves freq with
  | [] | [_] => simp [← leaves_length, hls] at h
  | l :: l' :: rest => rw [symbolLengths, ← hls, hloop, List.flatMap_singleton]

/-- Each used symbol is written once, and no other. -/
theorem lengthPairs_map_fst : ((lengthPairs freq).map Prod.fst).Perm ((usedSymbols freq).map Fin.val) := by
  rcases usedCount_cases freq with hzero | hone | htwo
  · rw [lengthPairs_of_zero hzero, List.length_eq_zero_iff.1 (usedCount_eq_length.symm.trans hzero)]
    rfl
  · obtain ⟨v, hv, hpairs⟩ := lengthPairs_of_one hone
    rw [hv, hpairs]
    rfl
  · obtain ⟨root, hrun, hpairs⟩ := lengthPairs_of_two htwo
    rw [hpairs, leafDepths_map_fst, ← leaves_flatMap_leafSymbols]
    exact mergeRun_leafSymbols hrun

/-- The root of a merge run has as many leaves as there are used symbols. -/
theorem mergeRun_leaves_length {root : HuffNode} (h : MergeRun 0 (leaves freq) root) :
    (leafSymbols root).length = usedCount freq := by
  rw [(mergeRun_leafSymbols h).length_eq, leaves_flatMap_leafSymbols, List.length_map, usedCount_eq_length]

/-- The bounds of rule R143. -/
theorem lengthPairs_bounds {u l : Nat} (h : (u, l) ∈ lengthPairs freq) :
    1 ≤ l ∧ l ≤ 255 ∧ (2 ≤ usedCount freq → l ≤ usedCount freq - 1) ∧ (usedCount freq = 1 → l = 1) := by
  rcases usedCount_cases freq with hzero | hone | htwo
  · simp [lengthPairs_of_zero hzero] at h
  · obtain ⟨v, -, hpairs⟩ := lengthPairs_of_one hone
    obtain ⟨-, rfl⟩ : u = v.val ∧ l = 1 := by simpa [hpairs] using h
    omega
  · obtain ⟨root, hrun, hpairs⟩ := lengthPairs_of_two htwo
    obtain ⟨j, rfl, hdepth⟩ := depthOf_of_mem_leafDepths (hpairs ▸ h)
    have hcount := mergeRun_leaves_length hrun
    have hpos := depthOf_pos (hcount ▸ htwo) hdepth
    have hbelow := depthOf_lt_length hdepth
    have hmax : usedCount freq ≤ 256 := usedCount_le
    omega

/-! ## The length table -/

section
variable {ps : List (Nat × Nat)} {k : Nat}

theorem lookup_eq_none_of_notMem_keys (hk : k ∉ ps.map Prod.fst) : ps.lookup k = none :=
  List.lookup_eq_none_iff.2 fun _ hp => bne_iff_ne.2 fun e => hk (List.mem_map.2 ⟨_, hp, e.symm⟩)

theorem lookup_getD_mem (hk : k ∈ ps.map Prod.fst) : (k, (ps.lookup k).getD 0) ∈ ps := by
  obtain ⟨p, hp, rfl⟩ := List.mem_map.1 hk
  obtain ⟨l, hl⟩ := Option.isSome_iff_exists.1 (List.lookup_isSome_iff.2 ⟨p, hp, BEq.rfl⟩)
  obtain ⟨before, after, hsplit, -⟩ := List.lookup_eq_some_iff.1 hl
  rw [hl, hsplit]
  exact List.mem_append_right before List.mem_cons_self

end

theorem lengthPairs_keys_nodup : ((lengthPairs freq).map Prod.fst).Nodup :=
  lengthPairs_map_fst.nodup_iff.2 usedSymbols_val_nodup

theorem mem_lengthPairs_keys : v.val ∈ (lengthPairs freq).map Prod.fst ↔ freq[v] ≠ 0 := by
  rw [lengthPairs_map_fst.mem_iff, List.mem_map_of_injective Fin.val_injective, mem_usedSymbols]

theorem lookup_lengthPairs_mem (hv : freq[v] ≠ 0) : (v.val, ((lengthPairs freq).lookup v.val).getD 0) ∈ lengthPairs freq :=
  lookup_getD_mem (mem_lengthPairs_keys.2 hv)

theorem lookup_lengthPairs_unused (hv : freq[v] = 0) : (lengthPairs freq).lookup v.val = none :=
  lookup_eq_none_of_notMem_keys fun h => mem_lengthPairs_keys.1 h hv

/-- Every length fits its register (rule R143). -/
theorem huffmanLengths_toNat : (huffmanLengths freq)[v].toNat = ((lengthPairs freq).lookup v.val).getD 0 := by
  have hfit : ((lengthPairs freq).lookup v.val).getD 0 < 256 := by
    by_cases hv : freq[v] = 0
    · rw [lookup_lengthPairs_unused hv]; decide
    · obtain ⟨-, hmax, -⟩ := lengthPairs_bounds (lookup_lengthPairs_mem hv)
      exact Nat.lt_succ_of_le hmax
  calc (huffmanLengths freq)[v].toNat
      = (BitVec.ofNat 8 (((lengthPairs freq).lookup v.val).getD 0)).toNat := by
        simp [huffmanLengths, leavesOf_eq_leaves, lengthPairs]
    _ = ((lengthPairs freq).lookup v.val).getD 0 := by rw [BitVec.toNat_ofNat, Nat.mod_eq_of_lt hfit]

theorem huffmanLengths_unused (hv : freq[v] = 0) : (huffmanLengths freq)[v] = 0 :=
  BitVec.eq_of_toNat_eq (by rw [huffmanLengths_toNat, lookup_lengthPairs_unused hv]; rfl)

theorem huffmanLengths_mem (hv : freq[v] ≠ 0) : (v.val, (huffmanLengths freq)[v].toNat) ∈ lengthPairs freq :=
  huffmanLengths_toNat ▸ lookup_lengthPairs_mem hv

end

/-- Summing over the keys of an association list what they look up is summing over its entries. -/
theorem sum_lookup {n : Nat} (w : Nat → Nat) (hw : w 0 = 0) {ps : List (Nat × Nat)} (hnd : (ps.map Prod.fst).Nodup)
    (hlt : ∀ p ∈ ps, p.1 < n) : ∑ v : Fin n, w ((ps.lookup v.val).getD 0) = (ps.map fun p => w p.2).sum := by
  induction ps with
  | nil => simp [hw]
  | cons p ps ih =>
    obtain ⟨k, d⟩ := p
    obtain ⟨hk, hps⟩ := List.nodup_cons.1 hnd
    obtain ⟨hkn, hpsn⟩ := List.forall_mem_cons.1 hlt
    have hnone : ps.lookup k = none := lookup_eq_none_of_notMem_keys hk
    have hstep (v : Fin n) : w ((((k, d) :: ps).lookup v.val).getD 0) =
        (if v = ⟨k, hkn⟩ then w d else 0) + w ((ps.lookup v.val).getD 0) := by
      by_cases hv : v = ⟨k, hkn⟩
      · subst hv
        simp [hnone, hw]
      · have hne : (v.val == k) = false := beq_false_of_ne fun e => hv (Fin.ext e)
        simp [List.lookup_cons, hne, hv]
    simp only [hstep, Finset.sum_add_distrib, Finset.sum_ite_eq', Finset.mem_univ, if_true, ih hps hpsn, List.map_cons,
      List.sum_cons]

theorem lengthList_eq_ofFn (len : Vector (BitVec 8) 256) : lengthList len = List.ofFn fun v : Fin 256 => len[v].toNat := by
  refine List.ext_getElem ?_ fun i _ _ => ?_
  · rw [lengthList, List.length_map, Vector.length_toList, List.length_ofFn]
  · rw [List.getElem_ofFn]
    simp only [lengthList, List.getElem_map, Vector.getElem_toList, Fin.getElem_fin]

/-- The Kraft sum is a sum over the symbols that got a length (rule R142). -/
theorem kraftSum_huffmanLengths (freq : Vector (BitVec 64) 256) :
    kraftSum (lengthList (huffmanLengths freq)) = ((lengthPairs freq).map fun p => 2 ^ (255 - p.2)).sum := by
  have hkeys : ∀ p ∈ lengthPairs freq, p.1 < 256 := fun p hp => by
    obtain ⟨v, -, hv⟩ := List.mem_map.1 (lengthPairs_map_fst.mem_iff.1 (List.mem_map_of_mem hp))
    exact hv ▸ v.isLt
  calc kraftSum (lengthList (huffmanLengths freq))
      = ∑ v : Fin 256, if (huffmanLengths freq)[v].toNat = 0 then 0 else 2 ^ (255 - (huffmanLengths freq)[v].toNat) := by
        simp only [kraftSum, lengthList_eq_ofFn, List.map_ofFn, List.sum_ofFn, Function.comp_apply]
    _ = ((lengthPairs freq).map fun p => if p.2 = 0 then 0 else 2 ^ (255 - p.2)).sum := by
        simp only [huffmanLengths_toNat]
        exact sum_lookup (fun l => if l = 0 then 0 else 2 ^ (255 - l)) rfl lengthPairs_keys_nodup hkeys
    _ = _ := by
        refine congrArg List.sum (List.map_congr_left fun p hp => if_neg ?_)
        exact Nat.one_le_iff_ne_zero.1 (lengthPairs_bounds hp).1

/-! ## The obligations on the Huffman tree builder -/

theorem exec_huff (s : State) : exec .huff s = .next (complete (buildLengths s)) := rfl

theorem len_of_exec_huff {s t : State} (h : exec .huff s = .next t) : t.len = huffmanLengths s.freq := by
  rw [exec_huff] at h
  obtain rfl := Host.Outcome.next.inj h
  rw [complete_len, buildLengths_len]

/-- `CANON` completes on a Kraft-valid length table (rules R150, R155). -/
theorem exec_canon_of_kraftValid {s : State} (hk : KraftValid s.len) :
    exec .canon s = .next (complete { s with tbl := canonicalTable s.len }) := by
  rw [exec, execCanon, buildTable, if_neg (Nat.not_lt.2 hk), endCommand_ok]

/-- Settles O30: the lengths are the leaf depths of the root of the merge run (`lengthPairs_of_two`). -/
theorem huffBuildsTheMergeTree : Obligations.HuffBuildsTheMergeTree := by
  intro s
  refine ⟨_, exec_huff s, rfl, rfl, fun v hv => ?_, fun hone v hv => ?_, fun htwo => ?_, ?_⟩
  · rw [complete_len, buildLengths_len, huffmanLengths_unused hv]
  · obtain ⟨-, -, -, hsole⟩ := lengthPairs_bounds (huffmanLengths_mem hv)
    rw [complete_len, buildLengths_len]
    exact BitVec.eq_of_toNat_eq (hsole hone)
  · obtain ⟨root, hrun, hpairs⟩ := lengthPairs_of_two htwo
    refine ⟨root, hrun, fun v hv => ?_⟩
    obtain ⟨j, hj, hdepth⟩ := depthOf_of_mem_leafDepths (hpairs ▸ huffmanLengths_mem hv)
    rw [complete_len, buildLengths_len, hj, Nat.zero_add]
    exact hdepth
  · rw [complete, buildLengths]

/-- The Kraft sums of rule R142: the leaves of the root share the weight of depth 0, a sole symbol has half of it. -/
theorem huffmanLengths_kraft (freq : Vector (BitVec 64) 256) :
    (2 ≤ usedCount freq → kraftSum (lengthList (huffmanLengths freq)) = 2 ^ 255) ∧
    (usedCount freq = 1 → kraftSum (lengthList (huffmanLengths freq)) = 2 ^ 254) ∧
    (usedCount freq = 0 → kraftSum (lengthList (huffmanLengths freq)) = 0) := by
  rw [kraftSum_huffmanLengths]
  refine ⟨fun htwo => ?_, fun hone => ?_, fun hzero => ?_⟩
  · obtain ⟨root, hrun, hpairs⟩ := lengthPairs_of_two htwo
    have hleaves : (leafSymbols root).length ≤ 256 := (mergeRun_leaves_length hrun).trans_le usedCount_le
    rw [hpairs, sum_leafDepths_weight root (by omega)]
  · obtain ⟨v, -, hpairs⟩ := lengthPairs_of_one hone
    rw [hpairs, List.map_singleton, List.sum_singleton]
    rfl
  · rw [lengthPairs_of_zero hzero, List.map_nil, List.sum_nil]

theorem huffmanLengths_kraftValid (freq : Vector (BitVec 64) 256) : KraftValid (huffmanLengths freq) := by
  obtain ⟨htwo, hone, hzero⟩ := huffmanLengths_kraft freq
  rcases usedCount_cases freq with h | h | h
  · exact (hzero h).trans_le (Nat.zero_le _)
  · exact (hone h).trans_le (Nat.pow_le_pow_right (by decide) (by decide))
  · exact (htwo h).le

/-- Settles O31: the Kraft sums of the table (`huffmanLengths_kraft`), which is all that `CANON` checks. -/
theorem huffLengthsAreKraftValid : Obligations.HuffLengthsAreKraftValid := by
  intro s t h
  obtain ⟨htwo, hone, hzero⟩ := huffmanLengths_kraft s.freq
  rw [len_of_exec_huff h]
  refine ⟨htwo, hone, hzero, _, exec_canon_of_kraftValid ?_, rfl⟩
  rw [len_of_exec_huff h]
  exact huffmanLengths_kraftValid s.freq

/-- Settles O32 by the bounds on the pairs written (`lengthPairs_bounds`). -/
theorem huffLengthsAreBounded : Obligations.HuffLengthsAreBounded := by
  intro s t v h
  rw [len_of_exec_huff h]
  refine ⟨huffmanLengths_unused, fun hv => ?_⟩
  obtain ⟨hmin, -, hmax, hsole⟩ := lengthPairs_bounds (huffmanLengths_mem hv)
  exact ⟨hmin, hmax, hsole⟩

end Sys2Proof.Machine
end

section
/-! SUPPORT. The canonical code assigner (rules R150 to R157): the counts, ranks, greatest length and first codes of a length
table as the claims state them, and the obligations on `CANON`. -/

namespace Sys2Proof.Machine

open Claims (lengthCount firstClosed rankOf)

/-! ## Counting lengths -/

/-- The first indices of a range are those below the bound. -/
theorem finRange_take (n k : Nat) : (List.finRange n).take k = (List.finRange n).filter (·.val < k) := by
  have htake : ∀ u ∈ (List.finRange n).take k, decide (u.val < k) = true := fun u hu => by
    obtain ⟨i, hi, rfl⟩ := List.mem_take_iff_getElem.1 hu
    simpa using (lt_min_iff.1 hi).1
  have hdrop : ∀ u ∈ (List.finRange n).drop k, ¬ decide (u.val < k) = true := fun u hu => by
    obtain ⟨i, hi, rfl⟩ := List.mem_drop_iff_getElem.1 hu
    simp
  conv_rhs => rw [← List.take_append_drop k (List.finRange n), List.filter_append, List.filter_eq_self.2 htake,
    List.filter_eq_nil_iff.2 hdrop, List.append_nil]

section
variable (len : Vector (BitVec 8) 256)

theorem lengthList_eq_map : lengthList len = (List.finRange 256).map fun v => len[v].toNat := by
  rw [lengthList_eq_ofFn, List.ofFn_eq_map]

theorem mem_lengthList {l : Nat} : l ∈ lengthList len ↔ ∃ v : Fin 256, len[v].toNat = l := by
  simp [lengthList_eq_map]

theorem lengthList_getElem?_val (v : Fin 256) : (lengthList len)[v.val]? = some len[v].toNat :=
  lengthList_getElem? len (BitVec.ofFin v)

/-- `count[L]` of the recurrence is the number of symbols of that length (rule R151). -/
theorem countLen_lengthList (l : Nat) : countLen (lengthList len) l = if l = 0 then 0 else lengthCount len l := by
  rw [countLen, lengthList_eq_map, List.count, List.countP_map]
  rfl

/-- The rank of a symbol counts the equal lengths in front of it (rule R153). -/
theorem count_take_lengthList (v : Fin 256) : ((lengthList len).take v.val).count len[v].toNat = rankOf len v := by
  rw [lengthList_eq_map, ← List.map_take, finRange_take, List.count, List.countP_map, List.countP_filter, rankOf]
  refine List.countP_congr fun u _ => ?_
  simp [BitVec.toNat_eq, and_comm]

/-! ## First codes -/

/-- One more length doubles the closed sum and adds a term for the length before it (rule R152). -/
theorem firstClosed_succ (l : Nat) :
    firstClosed len (l + 1) = (firstClosed len l + if l = 0 then 0 else lengthCount len l) * 2 := by
  have hterm : ∀ k ∈ List.range l, (if k = 0 then 0 else lengthCount len k * 2 ^ (l + 1 - k)) =
      (if k = 0 then 0 else lengthCount len k * 2 ^ (l - k)) * 2 := fun k hk => by
    rw [Nat.succ_sub (List.mem_range.1 hk).le, pow_succ, ite_mul, zero_mul, Nat.mul_assoc]
  rw [firstClosed, List.range_succ, List.map_append, List.sum_append, List.map_congr_left hterm, List.sum_map_mul_right,
    ← firstClosed, List.map_singleton, List.sum_singleton, Nat.add_sub_cancel_left, pow_one, Nat.add_mul, ite_mul, zero_mul]

/-- The recurrence and the closed form of rule R152 agree. -/
theorem firstCode_eq_firstClosed (l : Nat) : firstCode (lengthList len) l = firstClosed len l := by
  induction l with
  | zero => rfl
  | succ l ih => rw [firstCode, ih, countLen_lengthList, firstClosed_succ]

/-! ## The canonical table -/

/-- `TBL_MAXLEN` holds the greatest length (rules R151, R154). -/
theorem canonicalTable_maxLen_max? :
    (0 :: lengthList len).max? = some (canonicalTable len).maxLen.toNat := by
  have hmax : (0 :: lengthList len).max? = some ((lengthList len).foldl max 0) := List.max?_cons'
  have hfit : (lengthList len).foldl max 0 < 2 ^ 8 := by
    rcases List.mem_cons.1 (List.max?_mem hmax) with h | h
    · omega
    · obtain ⟨v, hv⟩ := (mem_lengthList len).1 h
      exact hv ▸ len[v].isLt
  rw [hmax, canonicalTable, BitVec.toNat_ofNat, Nat.mod_eq_of_lt hfit]

theorem length_le_maxLen (v : Fin 256) : len[v].toNat ≤ (canonicalTable len).maxLen.toNat :=
  (List.max?_eq_some_iff.1 (canonicalTable_maxLen_max? len)).2 _ (List.mem_cons_of_mem _ ((mem_lengthList len).2 ⟨v, rfl⟩))

theorem maxLen_attained : (canonicalTable len).maxLen = 0 ∨ ∃ v : Fin 256, len[v] = (canonicalTable len).maxLen := by
  rcases List.mem_cons.1 (List.max?_mem (canonicalTable_maxLen_max? len)) with h | h
  · exact .inl (BitVec.eq_of_toNat_eq h)
  · obtain ⟨v, hv⟩ := (mem_lengthList len).1 h
    exact .inr ⟨v, BitVec.eq_of_toNat_eq hv⟩

variable {len} {v : Fin 256}

/-- An unused symbol has the code 0 (rule R153). -/
theorem canonicalTable_code_unused (hv : len[v] = 0) : (canonicalTable len).code[v] = 0 := by
  have hlen : (lengthList len).getD v.val 0 = 0 := by
    rw [List.getD_eq_getElem?_getD, lengthList_getElem?_val, hv]
    rfl
  have hcode : codeOf (lengthList len) v.val = 0 := if_pos hlen
  simp only [canonicalTable, Fin.getElem_fin, Vector.getElem_ofFn, hcode]
  rfl

theorem canonicalTable_code_val (hk : KraftValid len) (hv : len[v] ≠ 0) :
    (canonicalTable len).code[v].toNat = codeOf (lengthList len) v.val :=
  canonicalTable_code (v := BitVec.ofFin v) hk hv

/-- The code of a used symbol is the first code of its length and its rank (rules R152, R153). -/
theorem canonicalTable_code_used (hk : KraftValid len) (hv : len[v] ≠ 0) :
    (canonicalTable len).code[v].toNat = firstClosed len len[v].toNat + rankOf len v :=
  calc (canonicalTable len).code[v].toNat
      = codeOf (lengthList len) v.val := canonicalTable_code_val hk hv
    _ = firstCode (lengthList len) len[v].toNat + ((lengthList len).take v.val).count len[v].toNat :=
        codeOf_used (lengthList_getElem?_val len v) (length_toNat_ne_zero (v := BitVec.ofFin v) hv)
    _ = firstClosed len len[v].toNat + rankOf len v := by rw [firstCode_eq_firstClosed, count_take_lengthList]

end

/-! ## The obligations on the canonical code assigner -/

/-- `CANON` raises on a length table that is not Kraft-valid (rules R150, R155). -/
theorem exec_canon_of_not_kraftValid {s : State} (hk : ¬ KraftValid s.len) :
    exec .canon s = .next (raise .e ⟨.badLengthTable, 0, s.curch⟩ s) := by
  rw [exec, execCanon, buildTable, if_pos (Nat.lt_of_not_le hk), endCommand_error, State.failure]

/-- Settles O33: the outcome is `exec_canon_of_kraftValid` or `exec_canon_of_not_kraftValid`, and the table is described by
`length_le_maxLen`, `maxLen_attained`, `canonicalTable_code_unused` and `canonicalTable_code_used`. -/
theorem canonBuildsTheTable : Obligations.CanonBuildsTheTable := by
  intro s
  refine ⟨fun hk => ?_, exec_canon_of_not_kraftValid⟩
  exact ⟨complete { s with tbl := canonicalTable s.len }, exec_canon_of_kraftValid hk, rfl, rfl, rfl, rfl,
    length_le_maxLen s.len, maxLen_attained s.len, fun _ => canonicalTable_code_unused,
    fun _ => canonicalTable_code_used hk, rfl⟩

/-- Settles O34: the recurrence by `countLen_lengthList`, the closed form by `firstCode_eq_firstClosed`, the room by
`firstCode_add_countLen_le`. -/
theorem firstCodesLeaveRoom : Obligations.FirstCodesLeaveRoom := by
  intro len
  refine ⟨fun l => ?_, fun l _ => firstCode_eq_firstClosed len l, fun hk l hpos hmax => ?_⟩
  · rw [firstCode, countLen_lengthList]
  · have hroom := firstCode_add_countLen_le hk hmax
    rwa [countLen_lengthList, if_neg (Nat.one_le_iff_ne_zero.1 hpos)] at hroom

/-- Settles O35: the register holds the whole code (`canonicalTable_code_val`), which fits its length (`codeOf_symbol_lt`). -/
theorem codesFitTheirLengths : Obligations.CodesFitTheirLengths := by
  intro len hk v hv
  have hcode := canonicalTable_code_val hk hv
  exact ⟨hcode.trans_lt (codeOf_symbol_lt (v := BitVec.ofFin v) hk hv), hcode⟩

/-- Settles O36 by `symbolBits_prefix`: a code that begins another belongs to the same symbol. -/
theorem codesArePrefixFree : Obligations.CodesArePrefixFree :=
  fun _ hk _ _ hne hu hv hprefix => hne (symbolBits_prefix hk hu hv hprefix)

end Sys2Proof.Machine
end

section
/-! SUPPORT. Bits as bytes (rules R63, R106, R161, R163): shifting a bit in, padding with zero bits, and the bytes that a padded
bit sequence stands for. -/

namespace Sys2Proof.Machine

/-! ## The bits of a register -/

/-- The low bits of a register, most significant first. -/
theorem codeBits_toNat {w : Nat} (a : BitVec w) (n : Nat) :
    codeBits a.toNat n = (List.range n).map fun j => a.getLsbD (n - 1 - j) := rfl

theorem byteBits_eq_codeBits (b : Byte) : byteBits b = codeBits b.toNat 8 := rfl

@[simp] theorem byteBits_length (b : Byte) : (byteBits b).length = 8 := codeBits_length b.toNat 8

/-- The accumulator with one more bit (rule R161). -/
def shiftIn (acc : Byte) (bit : Bool) : Byte := (acc <<< 1) ||| (BitVec.ofBool bit).setWidth 8

/-- Shifting in a bit puts it behind the bits held (rule R161). -/
theorem codeBits_shiftIn (a : Byte) (bit : Bool) {n : Nat} (hn : n < 8) :
    codeBits (shiftIn a bit).toNat (n + 1) = codeBits a.toNat n ++ [bit] := by
  simp only [shiftIn, codeBits_toNat, List.range_succ, List.map_append, List.map_singleton]
  congr 1
  · refine List.map_congr_left fun j hj => ?_
    have hj : j < n := List.mem_range.1 hj
    have hsucc : n + 1 - 1 - j = n - 1 - j + 1 := by omega
    have h8 : n - 1 - j + 1 < 8 := by omega
    rw [hsucc]
    simp [h8, -BitVec.getLsbD_eq_getElem]
  · simp

/-- Shifting a byte's bits up puts zero bits behind them (rule R163). -/
theorem codeBits_pad (a : Byte) {n : Nat} (hn : n ≤ 8) :
    codeBits (a <<< (8 - n)).toNat 8 = codeBits a.toNat n ++ List.replicate (8 - n) false := by
  refine List.ext_getElem (by simp; omega) fun j hj _ => ?_
  have hj : j < 8 := by simpa using hj
  simp only [codeBits_toNat, List.getElem_append, List.length_map, List.length_range, List.getElem_map, List.getElem_range,
    List.getElem_replicate, BitVec.getLsbD_shiftLeft, show 8 - 1 - j < 8 by omega, decide_true, Bool.true_and]
  by_cases hlt : j < n
  · rw [dif_pos hlt, decide_eq_false (by omega), show 8 - 1 - j - (8 - n) = n - 1 - j by omega]
    rfl
  · rw [dif_neg hlt, decide_eq_true (by omega)]
    rfl

/-! ## The bytes of a bit sequence -/

/-- The bits of a byte sequence, by the byte and the place in it. -/
theorem getElem?_flatMap_byteBits (bs : List Byte) (i : Nat) {k : Nat} (hk : k < 8) :
    (bs.flatMap byteBits)[8 * i + k]? = bs[i]?.map fun b => b.getLsbD (7 - k) := by
  induction bs generalizing i with
  | nil => rfl
  | cons b bs ih =>
    rw [List.flatMap_cons]
    cases i with
    | zero => simp [List.getElem?_append_left, hk, byteBits]
    | succ i =>
      rw [List.getElem?_append_right (by simp; omega), byteBits_length, show 8 * (i + 1) + k - 8 = 8 * i + k by omega, ih]
      rfl

theorem length_flatMap_byteBits (bs : List Byte) : (bs.flatMap byteBits).length = 8 * bs.length := by
  simp [List.length_flatMap, Nat.mul_comm]

/-- A byte is the number its bits spell. -/
theorem ofNat_foldl_getLsbD (b : Byte) :
    BitVec.ofNat 8 ((List.range 8).foldl (fun acc k => 2 * acc + (b.getLsbD (7 - k)).toNat) 0) = b := by
  revert b; decide

@[simp] theorem bytesOfBits_length (bits : List Bool) : (bytesOfBits bits).length = (bits.length + 7) / 8 := by
  simp [bytesOfBits]

/-- Zero bits behind a bit sequence are what is read beyond its end. -/
theorem getD_append_replicate_false (bits : List Bool) (p i : Nat) :
    (bits ++ List.replicate p false).getD i false = bits.getD i false := by
  by_cases hlt : i < bits.length
  · rw [List.getD_append _ _ _ _ hlt]
  · rw [List.getD_append_right _ _ _ _ (Nat.le_of_not_lt hlt), List.getD_eq_default _ _ (Nat.le_of_not_lt hlt),
      List.getD_eq_getElem?_getD, List.getElem?_replicate]
    split <;> rfl

/-- Bytes whose bits are a bit sequence behind which at most seven zero bits stand are that sequence's bytes (rule R106). -/
theorem bytesOfBits_eq {bits : List Bool} {p : Nat} {bs : List Byte} (hp : p < 8)
    (h : bs.flatMap byteBits = bits ++ List.replicate p false) : bytesOfBits bits = bs := by
  have hlen : 8 * bs.length = bits.length + p := by
    rw [← length_flatMap_byteBits, h, List.length_append, List.length_replicate]
  refine List.ext_getElem (by rw [bytesOfBits_length]; omega) fun i _ hi => ?_
  have hget (k : Nat) (hk : k < 8) : bits.getD (8 * i + k) false = bs[i].getLsbD (7 - k) := by
    rw [← getD_append_replicate_false bits p, ← h, List.getD_eq_getElem?_getD, getElem?_flatMap_byteBits bs i hk]
    simp [hi]
  simp only [bytesOfBits, List.getElem_map, List.getElem_range]
  rw [← ofNat_foldl_getLsbD bs[i]]
  congr 1
  refine List.foldl_ext _ _ _ fun acc k hk => ?_
  rw [hget k (List.mem_range.1 hk)]

end Sys2Proof.Machine
end

section
/-! SUPPORT. The bit packer (rules R160 to R167): what one more byte and one more bit leave, and that every stage of the packer
appends its bits to the stream or raises at the first byte that does not fit. -/

namespace Sys2Proof.Machine

open Claims (payRoom)

/-! ## Room -/

theorem le_payLimit_iff {cap : Option Nat} {n : Nat} : n ≤ payLimit cap ↔ overCap cap n = false ∧ n < 2 ^ 64 := by
  cases cap with
  | none => simp only [payLimit, overCap_none, true_and]; omega
  | some k => simp only [payLimit, overCap_some, decide_eq_false_iff_not]; omega

theorem payRoom_iff {s : State} {n : Nat} : payRoom s n = true ↔ s.payLen.toNat + n ≤ payLimit s.cfg.payCap := by
  rw [le_payLimit_iff, payRoom]
  simp

/-! ## One byte, one bit, the last byte -/

theorem packAppendByte_eq (b : Byte) (s : State) :
    packAppendByte b s =
      if s.payLen.toNat < payLimit s.cfg.payCap then
        .ok { s with pay := s.pay.write s.payLen.toNat b, payLen := s.payLen + 1 }
      else .error ⟨.capPay, s.payLen.toNat, s.curch⟩ := by
  split
  · next h =>
    obtain ⟨t, ht⟩ := (packAppendByte_ok_iff b s).2 h
    obtain ⟨-, -, rfl⟩ := packAppendByte_inv ht
    exact ht
  · next h =>
    cases hr : packAppendByte b s with
    | ok t => exact absurd ((packAppendByte_ok_iff b s).1 ⟨t, hr⟩) h
    | error e => rw [packAppendByte_error hr]

/-- The state behind a completed byte: the byte appended, the accumulator empty (rules R161, R163). -/
def completeByte (b : Byte) (s : State) : State :=
  { s with pay := s.pay.write s.payLen.toNat b, payLen := s.payLen + 1, pkAcc := 0, pkNb := 0 }

theorem packBit_eq (b : Bool) (s : State) :
    packBit b s =
      if s.pkNb.toNat < 7 then .ok { s with pkAcc := shiftIn s.pkAcc b, pkNb := s.pkNb + 1 }
      else if s.payLen.toNat < payLimit s.cfg.payCap then .ok (completeByte (shiftIn s.pkAcc b) s)
      else .error ⟨.capPay, s.payLen.toNat, s.curch⟩ := by
  have hnb := s.pkNb.isLt
  rw [packBit, packAppendByte_eq]
  by_cases hfull : s.pkNb.toNat + 1 = 8
  · rw [if_pos hfull, if_neg (show ¬ s.pkNb.toNat < 7 by omega)]
    by_cases hroom : s.payLen.toNat < payLimit s.cfg.payCap
    · rw [if_pos hroom, if_pos hroom]; rfl
    · rw [if_neg hroom, if_neg hroom]
  · rw [if_neg hfull, if_pos (show s.pkNb.toNat < 7 by omega)]; rfl

theorem packFin_eq (s : State) :
    packFin s =
      if s.pkNb = 0 then .ok s
      else if s.payLen.toNat < payLimit s.cfg.payCap then .ok (completeByte (s.pkAcc <<< (8 - s.pkNb.toNat)) s)
      else .error ⟨.capPay, s.payLen.toNat, s.curch⟩ := by
  rw [packFin, packAppendByte_eq]
  by_cases hroom : s.payLen.toNat < payLimit s.cfg.payCap
  · rw [if_pos hroom, if_pos hroom]; rfl
  · rw [if_neg hroom, if_neg hroom]

/-- With no bits pending there is no last byte to complete (rule R163). -/
theorem packFin_idle {s : State} (h : s.pkNb = 0) : packFin s = .ok s := by
  rw [packFin_eq, if_pos h]

theorem packFin_pads {s : State} (hnb : s.pkNb ≠ 0) (hroom : s.payLen.toNat < payLimit s.cfg.payCap) :
    packFin s = .ok (completeByte (s.pkAcc <<< (8 - s.pkNb.toNat)) s) := by
  rw [packFin_eq, if_neg hnb, if_pos hroom]

theorem packFin_full {s : State} (hnb : s.pkNb ≠ 0) (h : payLimit s.cfg.payCap ≤ s.payLen.toNat) :
    packFin s = .error ⟨.capPay, s.payLen.toNat, s.curch⟩ := by
  rw [packFin_eq, if_neg hnb, if_neg (Nat.not_lt.2 h)]

theorem pkNb_eq_zero_iff {nb : BitVec 3} : nb = 0 ↔ nb.toNat = 0 := by simp [BitVec.toNat_eq]

/-! ## What a stage of the packer appends -/

theorem Memory.readBytes_succ (m : Memory) (a n : Nat) : m.readBytes a (n + 1) = m.readBytes a n ++ [m.read (a + n)] := by
  simp [Memory.readBytes, List.range_succ]

/-- The bits in the accumulator (rule R160). -/
def pendingBits (s : State) : List Bool := codeBits s.pkAcc.toNat s.pkNb.toNat

theorem streamBits_eq (s : State) : streamBits s = payloadBits s ++ pendingBits s := rfl

@[simp] theorem payloadBits_length (s : State) : (payloadBits s).length = 8 * s.payLen.toNat := by
  rw [payloadBits, length_flatMap_byteBits, Memory.readBytes_length]

theorem streamBits_length (s : State) : (streamBits s).length = 8 * s.payLen.toNat + s.pkNb.toNat := by
  rw [streamBits_eq, List.length_append, payloadBits_length, pendingBits, codeBits_length]

/-- `t` is `s` with `bits` appended to the stream: only `PK` and `PAY` differ, and no payload byte outside the completed ones. -/
structure Appends (bits : List Bool) (s t : State) : Prop where
  stream : streamBits t = streamBits s ++ bits
  outside : ∀ a, a < s.payLen.toNat ∨ t.payLen.toNat ≤ a → t.pay.read a = s.pay.read a
  emptied : (s.pkNb = 0 → s.pkAcc = 0) → t.pkNb = 0 → t.pkAcc = 0
  frame : t = { s with pay := t.pay, payLen := t.payLen, pkAcc := t.pkAcc, pkNb := t.pkNb }

namespace Appends
variable {b : Bool} {bits more : List Bool} {s t u : State}

theorem cfg (h : Appends bits s t) : t.cfg = s.cfg := (congrArg State.cfg h.frame :)

theorem curch (h : Appends bits s t) : t.curch = s.curch := (congrArg State.curch h.frame :)

theorem tbl (h : Appends bits s t) : t.tbl = s.tbl := (congrArg State.tbl h.frame :)

theorem total (h : Appends bits s t) :
    8 * t.payLen.toNat + t.pkNb.toNat = 8 * s.payLen.toNat + s.pkNb.toNat + bits.length := by
  rw [← streamBits_length, h.stream, List.length_append, streamBits_length]

theorem payLen_eq (h : Appends bits s t) : t.payLen.toNat = s.payLen.toNat + (s.pkNb.toNat + bits.length) / 8 := by
  have := h.total
  have := t.pkNb.isLt
  omega

theorem pkNb_eq (h : Appends bits s t) : t.pkNb.toNat = (s.pkNb.toNat + bits.length) % 8 := by
  have := h.total
  have := t.pkNb.isLt
  omega

theorem refl (s : State) : Appends [] s s :=
  ⟨(List.append_nil _).symm, fun _ _ => rfl, id, rfl⟩

theorem trans (h : Appends bits s t) (h' : Appends more t u) : Appends (bits ++ more) s u where
  stream := by rw [h'.stream, h.stream, List.append_assoc]
  outside a ha := by
    have := h.payLen_eq
    have := h'.payLen_eq
    rw [h'.outside a (by omega), h.outside a (by omega)]
  emptied := h'.emptied ∘ h.emptied
  frame := h'.frame.trans (by rw [h.frame])

/-- One more bit in an accumulator that it does not fill. -/
theorem shift (hnb : s.pkNb.toNat < 7) (b : Bool) :
    Appends [b] s { s with pkAcc := shiftIn s.pkAcc b, pkNb := s.pkNb + 1 } := by
  have hnext : (s.pkNb + 1).toNat = s.pkNb.toNat + 1 := by
    rw [BitVec.toNat_add, show (1 : BitVec 3).toNat = 1 from rfl]; omega
  refine ⟨?_, fun _ _ => rfl, fun _ h0 => ?_, rfl⟩
  · have hbits : codeBits (shiftIn s.pkAcc b).toNat (s.pkNb + 1).toNat = pendingBits s ++ [b] := by
      rw [hnext, codeBits_shiftIn _ _ (by omega), pendingBits]
    rw [streamBits_eq, streamBits_eq, List.append_assoc, ← hbits]
    rfl
  · have h0 : (s.pkNb + 1).toNat = 0 := congrArg BitVec.toNat h0
    omega

/-- A completed byte whose first bits are those of the accumulator. -/
theorem byte (hroom : s.payLen.toNat < payLimit s.cfg.payCap) {B : Byte} (hB : byteBits B = pendingBits s ++ bits) :
    Appends bits s (completeByte B s) := by
  have hlen : (s.payLen + 1).toNat = s.payLen.toNat + 1 := by
    have := (le_payLimit_iff.1 hroom).2
    rw [BitVec.toNat_add, show (1 : BitVec 64).toNat = 1 from rfl]; omega
  refine ⟨?_, fun a ha => ?_, fun _ _ => rfl, rfl⟩
  · have hsame : (s.pay.write s.payLen.toNat B).readBytes 0 s.payLen.toNat = s.pay.readBytes 0 s.payLen.toNat :=
      Memory.readBytes_congr fun x _ hx => s.pay.read_write_other B (by omega)
    have hpay : payloadBits (completeByte B s) = payloadBits s ++ byteBits B := by
      simp only [payloadBits, completeByte, hlen, Memory.readBytes_succ, hsame, Nat.zero_add, Memory.read_write_same,
        List.flatMap_append, List.flatMap_singleton]
    have hnone : pendingBits (completeByte B s) = [] := rfl
    rw [streamBits_eq, hpay, hnone, hB, streamBits_eq, List.append_nil, List.append_assoc]
  · refine s.pay.read_write_other B ?_
    have : (completeByte B s).payLen.toNat = s.payLen.toNat + 1 := hlen
    omega

theorem packBit (h : packBit b s = .ok t) : Appends [b] s t := by
  rw [packBit_eq] at h
  split at h
  · next hnb => exact Except.ok.inj h ▸ shift hnb b
  · next hnb =>
    split at h
    · next hroom =>
      have h7 : s.pkNb.toNat = 7 := by have := s.pkNb.isLt; omega
      refine Except.ok.inj h ▸ byte hroom ?_
      rw [byteBits_eq_codeBits, codeBits_shiftIn _ _ (by omega), pendingBits, h7]
    · cases h

theorem packBits (h : packBits bits s = .ok t) : Appends bits s t := by
  induction bits generalizing s with
  | nil => exact Except.ok.inj h ▸ refl s
  | cons b bits ih =>
    rw [packBits_cons] at h
    cases hb : Machine.packBit b s with
    | error e => rw [hb] at h; cases h
    | ok u => rw [hb] at h; exact (packBit hb).trans (ih h)

theorem packFin (h : packFin s = .ok t) : Appends (List.replicate ((8 - s.pkNb.toNat) % 8) false) s t := by
  have hlt := s.pkNb.isLt
  by_cases h0 : s.pkNb = 0
  · rw [packFin_idle h0] at h
    rw [h0]
    exact Except.ok.inj h ▸ refl s
  · have hpos := mt pkNb_eq_zero_iff.2 h0
    by_cases hroom : s.payLen.toNat < payLimit s.cfg.payCap
    · rw [packFin_pads h0 hroom] at h
      refine Except.ok.inj h ▸ byte hroom ?_
      rw [byteBits_eq_codeBits, codeBits_pad _ (by omega), Nat.mod_eq_of_lt (by omega), pendingBits]
    · rw [packFin_full h0 (Nat.le_of_not_lt hroom)] at h
      cases h

end Appends

/-! ## When a stage has room -/

/-- The next bit completes no byte or there is room for that byte. -/
theorem packBit_fits {s : State} (h : s.pkNb.toNat < 7 ∨ s.payLen.toNat < payLimit s.cfg.payCap) (b : Bool) :
    ∃ t, packBit b s = .ok t := by
  rw [packBit_eq]
  split
  · exact ⟨_, rfl⟩
  · next hnb => exact ⟨_, if_pos (h.resolve_left hnb)⟩

theorem packBit_full {s : State} (hnb : s.pkNb.toNat = 7) (h : payLimit s.cfg.payCap ≤ s.payLen.toNat) (b : Bool) :
    packBit b s = .error ⟨.capPay, s.payLen.toNat, s.curch⟩ := by
  rw [packBit_eq, if_neg (by omega), if_neg (by omega)]

/-- Bits are packed when they complete no byte or there is room for the bytes they complete. -/
theorem packBits_fits {bits : List Bool} {s : State}
    (h : (s.pkNb.toNat + bits.length) / 8 = 0 ∨
      s.payLen.toNat + (s.pkNb.toNat + bits.length) / 8 ≤ payLimit s.cfg.payCap) :
    ∃ t, packBits bits s = .ok t ∧ Appends bits s t := by
  suffices hok : ∃ t, packBits bits s = .ok t by
    obtain ⟨t, ht⟩ := hok
    exact ⟨t, ht, .packBits ht⟩
  induction bits generalizing s with
  | nil => exact ⟨s, rfl⟩
  | cons b bits ih =>
    rw [List.length_cons] at h
    obtain ⟨u, hu⟩ := packBit_fits (s := s) (by omega) b
    have happ := Appends.packBit hu
    have htotal := happ.total
    have hnb := u.pkNb.isLt
    rw [List.length_singleton] at htotal
    rw [packBits_cons, hu]
    refine ih ?_
    rw [happ.cfg]
    omega

/-- Bits that complete a byte for which there is no room raise at the first such byte (rule R162). -/
theorem packBits_full {bits : List Bool} {s : State} (hpos : (s.pkNb.toNat + bits.length) / 8 ≠ 0)
    (h : payLimit s.cfg.payCap < s.payLen.toNat + (s.pkNb.toNat + bits.length) / 8) :
    packBits bits s = .error ⟨.capPay, max s.payLen.toNat (payLimit s.cfg.payCap), s.curch⟩ := by
  have hlt := s.pkNb.isLt
  induction bits generalizing s with
  | nil => simp only [List.length_nil] at hpos; omega
  | cons b bits ih =>
    rw [List.length_cons] at hpos h
    rw [packBits_cons]
    by_cases hfull : s.pkNb.toNat = 7 ∧ payLimit s.cfg.payCap ≤ s.payLen.toNat
    · rw [packBit_full hfull.1 hfull.2, Nat.max_eq_left hfull.2]
      rfl
    · obtain ⟨u, hu⟩ := packBit_fits (s := s) (by omega) b
      have happ := Appends.packBit hu
      have htotal := happ.total
      have hnb := u.pkNb.isLt
      rw [List.length_singleton] at htotal
      have hmax : max u.payLen.toNat (payLimit s.cfg.payCap) = max s.payLen.toNat (payLimit s.cfg.payCap) := by omega
      rw [hu, ok_bind, ih (by omega) (by rw [happ.cfg]; omega) hnb, happ.cfg, happ.curch, hmax]

/-- `PackFin()` completes when no bit is pending or there is room for the last byte. -/
theorem packFin_fits {s : State} (h : s.pkNb = 0 ∨ s.payLen.toNat < payLimit s.cfg.payCap) : ∃ t, packFin s = .ok t := by
  by_cases h0 : s.pkNb = 0
  · exact ⟨s, packFin_idle h0⟩
  · exact ⟨_, packFin_pads h0 (h.resolve_left h0)⟩

/-! ## Symbols -/

theorem putSymbol_unused {v : Byte} {s : State} (h : s.tbl.len[v.toNat] = 0) :
    putSymbol v s = .error ⟨.noCode, v.toNat, s.curch⟩ := by
  rw [putSymbol, if_pos h, State.failure]

theorem putSymbol_used {v : Byte} {s : State} (h : s.tbl.len[v.toNat] ≠ 0) :
    putSymbol v s = packBits (symbolBits s.tbl v) s := by
  rw [putSymbol, if_neg h, packPut, symbolBits_eq_codeBits]

theorem packBits_append (bits more : List Bool) (s : State) :
    packBits (bits ++ more) s = packBits bits s >>= packBits more := by
  induction bits generalizing s with
  | nil => rfl
  | cons b bits ih =>
    rw [List.cons_append, packBits_cons, packBits_cons]
    cases packBit b s with
    | error e => rfl
    | ok t => exact ih t

/-- Symbols that all have a code are packed as the concatenation of their codes (rule R106). -/
theorem putSymbols_used {vs : List Byte} {s : State} (h : ∀ v ∈ vs, s.tbl.len[v.toNat] ≠ 0) :
    putSymbols vs s = packBits (vs.flatMap (symbolBits s.tbl)) s := by
  induction vs generalizing s with
  | nil => rfl
  | cons v vs ih =>
    rw [List.forall_mem_cons] at h
    rw [putSymbols_cons, putSymbol_used h.1, List.flatMap_cons, packBits_append]
    cases hb : packBits (symbolBits s.tbl v) s with
    | error e => rfl
    | ok t =>
      have htbl := (Appends.packBits hb).tbl
      rw [ok_bind, ok_bind, ih (by rw [htbl]; exact h.2), htbl]

theorem putSymbols_append (vs ws : List Byte) (s : State) :
    putSymbols (vs ++ ws) s = putSymbols vs s >>= putSymbols ws := by
  induction vs generalizing s with
  | nil => rfl
  | cons v vs ih =>
    rw [List.cons_append, putSymbols_cons, putSymbols_cons]
    cases putSymbol v s with
    | error e => rfl
    | ok t => exact ih t

/-- Behind symbols that are packed, a symbol without a code raises (rule R165). -/
theorem putSymbols_unused {vs ws : List Byte} {v : Byte} {s : State} (hused : ∀ u ∈ vs, s.tbl.len[u.toNat] ≠ 0)
    (h : s.tbl.len[v.toNat] = 0)
    (hroom : (s.pkNb.toNat + (vs.flatMap (symbolBits s.tbl)).length) / 8 = 0 ∨
      s.payLen.toNat + (s.pkNb.toNat + (vs.flatMap (symbolBits s.tbl)).length) / 8 ≤ payLimit s.cfg.payCap) :
    putSymbols (vs ++ v :: ws) s = .error ⟨.noCode, v.toNat, s.curch⟩ := by
  obtain ⟨t, ht, happ⟩ := packBits_fits hroom
  have hunused : t.tbl.len[v.toNat] = 0 := by rw [happ.tbl]; exact h
  rw [putSymbols_append, putSymbols_used hused, ht, ok_bind, putSymbols_cons, putSymbol_unused hunused, happ.curch]
  rfl

/-! ## The whole channel -/

/-- The codes of the residual bytes in index order (rules R106, R167). -/
def residualBits (s : State) : List Bool := (List.range s.resN.toNat).flatMap fun i => symbolBits s.tbl (s.res.read i)

section
variable {s t : State}

/-- `PackInit()` leaves the empty bit sequence (rule R160). -/
theorem packInit_empty (s : State) : (packInit s).pkNb.toNat = 0 ∧ (packInit s).payLen.toNat = 0 := ⟨rfl, rfl⟩

theorem residualBits_length :
    (residualBits s).length = ((List.range s.resN.toNat).map fun i => s.tbl.len[(s.res.read i).toNat].toNat).sum := by
  simp only [residualBits, List.length_flatMap, symbolBits_length]

theorem resBytes_eq (s : State) : s.resBytes = (List.range s.resN.toNat).map s.res.read := by
  simp only [State.resBytes, Memory.readBytes, Nat.zero_add]

/-- The residual bytes around the one at an index. -/
theorem resBytes_split {i : Nat} (hi : i < s.resN.toNat) :
    s.resBytes = (List.range i).map s.res.read ++ s.res.read i :: s.resBytes.drop (i + 1) := by
  have hlen : i < s.resBytes.length := by simpa [resBytes_eq] using hi
  have hget : s.resBytes[i] = s.res.read i := by simp [resBytes_eq]
  have htake : s.resBytes.take i = (List.range i).map s.res.read := by
    rw [resBytes_eq, ← List.map_take, List.take_range, Nat.min_eq_left hi.le]
  rw [← hget, ← htake, ← List.drop_eq_getElem_cons hlen, List.take_append_drop]

theorem packChannel_used (h : ∀ i, i < s.resN.toNat → s.tbl.len[(s.res.read i).toNat] ≠ 0) :
    packChannel s = packBits (residualBits s) (packInit s) >>= packFin := by
  have hused : ∀ v ∈ s.resBytes, (packInit s).tbl.len[v.toNat] ≠ 0 := by
    simpa [resBytes_eq] using h
  rw [packChannel, putSymbols_used hused, resBytes_eq, List.flatMap_map]
  rfl

/-- `PackChannel()` with room for the padded payload. -/
theorem packChannel_fits (h : ∀ i, i < s.resN.toNat → s.tbl.len[(s.res.read i).toNat] ≠ 0)
    (hroom : ((residualBits s).length + 7) / 8 ≤ payLimit s.cfg.payCap) :
    ∃ t p, packChannel s = .ok t ∧ p < 8 ∧ t.pkNb = 0 ∧
      Appends (residualBits s ++ List.replicate p false) (packInit s) t := by
  have hstart := packInit_empty s
  obtain ⟨u, hu, happ⟩ := packBits_fits (s := packInit s) (bits := residualBits s) (by rw [packInit_cfg]; omega)
  have hnb := happ.pkNb_eq
  have hlen := happ.payLen_eq
  obtain ⟨t, ht⟩ := packFin_fits (s := u) (by rw [pkNb_eq_zero_iff, happ.cfg, packInit_cfg]; omega)
  have hfin := happ.trans (.packFin ht)
  refine ⟨t, _, ?_, Nat.mod_lt _ (by decide), ?_, hfin⟩
  · rw [packChannel_used h, hu, ok_bind, ht]
  · rw [pkNb_eq_zero_iff, hfin.pkNb_eq, List.length_append, List.length_replicate]
    omega

/-- `PackChannel()` without room for the padded payload raises at the first byte that does not fit. -/
theorem packChannel_full (h : ∀ i, i < s.resN.toNat → s.tbl.len[(s.res.read i).toNat] ≠ 0)
    (hfull : payLimit s.cfg.payCap < ((residualBits s).length + 7) / 8) :
    packChannel s = .error ⟨.capPay, payLimit s.cfg.payCap, s.curch⟩ := by
  have hstart := packInit_empty s
  rw [packChannel_used h]
  by_cases hwhole : (residualBits s).length / 8 ≤ payLimit s.cfg.payCap
  · obtain ⟨u, hu, happ⟩ := packBits_fits (s := packInit s) (bits := residualBits s) (by rw [packInit_cfg]; omega)
    have hnb := happ.pkNb_eq
    have hlen := happ.payLen_eq
    have hlimit : u.payLen.toNat = payLimit s.cfg.payCap := by omega
    have hpending : u.pkNb ≠ 0 := by rw [ne_eq, pkNb_eq_zero_iff]; omega
    have hat : payLimit u.cfg.payCap ≤ u.payLen.toNat := by rw [happ.cfg, hlimit, packInit_cfg]
    rw [hu, ok_bind, packFin_full hpending hat, hlimit, happ.curch, packInit_curch]
  · rw [packBits_full (by omega) (by rw [packInit_cfg]; omega), hstart.2, Nat.zero_max, packInit_cfg, packInit_curch]
    rfl

/-- `PackChannel()` raises at the first residual byte without a code when there is room for the bytes completed before it. -/
theorem packChannel_unused {i : Nat} (hi : i < s.resN.toNat) (h : s.tbl.len[(s.res.read i).toNat] = 0)
    (hbefore : ∀ j, j < i → s.tbl.len[(s.res.read j).toNat] ≠ 0)
    (hroom : ((List.range i).map fun j => s.tbl.len[(s.res.read j).toNat].toNat).sum / 8 ≤ payLimit s.cfg.payCap) :
    packChannel s = .error ⟨.noCode, (s.res.read i).toNat, s.curch⟩ := by
  have hused : ∀ v ∈ (List.range i).map s.res.read, (packInit s).tbl.len[v.toNat] ≠ 0 := by simpa using hbefore
  have hlen : (((List.range i).map s.res.read).flatMap (symbolBits (packInit s).tbl)).length =
      ((List.range i).map fun j => s.tbl.len[(s.res.read j).toNat].toNat).sum := by
    simp only [List.flatMap_map, List.length_flatMap, symbolBits_length, packInit_tbl]
  have hstart := packInit_empty s
  rw [packChannel, resBytes_split hi, putSymbols_unused hused h (by rw [hlen, packInit_cfg]; omega)]
  rfl

/-- The payload of a padded stream begun by `PackInit()` is the stream's bytes. -/
theorem Appends.payload_eq {bits : List Bool} {p : Nat} (h : Appends (bits ++ List.replicate p false) (packInit s) t)
    (hp : p < 8) (hnb : t.pkNb = 0) : bytesOfBits bits = t.pay.readBytes 0 t.payLen.toNat := by
  refine bytesOfBits_eq hp ?_
  have hstream := h.stream
  have hnone : pendingBits t = [] := by rw [pendingBits, hnb]; rfl
  rw [streamBits_eq, hnone, List.append_nil] at hstream
  exact hstream

theorem exec_pack (h : overCap s.cfg.resCap s.resN.toNat = false) :
    exec .pack s = .next (endCommand .e s (packChannel s)) := by
  rw [exec, execPack, packBody, checkRes_within h]
  rfl

end

/-! ## The obligations on the packer -/

/-- Settles O37: the code's bits fit (`packBits_fits`) or raise at the first byte without room (`packBits_full`). -/
theorem pkPutAppendsTheCode : Obligations.PkPutAppendsTheCode := by
  intro v s
  simp only [payRoom_iff, ← Bool.not_eq_true]
  refine ⟨fun hv hroom => ?_, fun j hv hj hroom hfull => ?_, fun hv => ?_⟩
  · rw [← symbolBits_length] at hroom ⊢
    obtain ⟨t, ht, happ⟩ := packBits_fits hroom
    have hlen := happ.payLen_eq
    refine ⟨complete t, ?_, rfl, rfl, happ.stream, hlen, happ.pkNb_eq, fun a ha => happ.outside a (by omega), ?_⟩
    · rw [exec, execPkPut, putSymbol_used hv, ht, endCommand_ok]
    · rw [happ.frame]; rfl
  · rw [← symbolBits_length] at hj
    have hpos : max s.payLen.toNat (payLimit s.cfg.payCap) = s.payLen.toNat + j := by omega
    rw [exec, execPkPut, putSymbol_used hv, packBits_full (by omega) (by omega), hpos, endCommand_error]
  · rw [exec, execPkPut, putSymbol_unused hv, endCommand_error]

/-- Settles O38: with the last byte's room by `packFin_fits`, without it by `packFin_full`. -/
theorem pkFinPadsTheLastByte : Obligations.PkFinPadsTheLastByte := by
  intro s
  simp only [payRoom_iff, ← Bool.not_eq_true]
  refine ⟨fun hroom => ?_, fun hnb hfull => ?_⟩
  · have hlt := s.pkNb.isLt
    obtain ⟨t, ht⟩ := packFin_fits hroom
    have happ := Appends.packFin ht
    have hnb := happ.pkNb_eq
    have hlen : t.payLen.toNat = s.payLen.toNat + if s.pkNb = 0 then 0 else 1 := by
      rw [happ.payLen_eq, List.length_replicate]
      simp only [pkNb_eq_zero_iff]
      split <;> omega
    rw [List.length_replicate] at hnb
    refine ⟨complete t, ?_, rfl, rfl, happ.stream, hlen, pkNb_eq_zero_iff.2 (by rw [complete_pkNb]; omega), fun h0 => ?_,
      fun h0 => ?_, fun a ha => happ.outside a ?_, ?_⟩
    · rw [exec, execPkFin, ht, endCommand_ok]
    · rw [packFin_pads h0 (hroom.resolve_left h0)] at ht
      rw [← Except.ok.inj ht]; rfl
    · rw [packFin_idle h0] at ht
      rw [← Except.ok.inj ht]; exact ⟨rfl, rfl⟩
    · split at hlen <;> omega
    · rw [happ.frame]; rfl
  · rw [exec, execPkFin, packFin_full hnb (by omega), endCommand_error]

/-- Settles O39: `packChannel_fits` with the bytes of `Appends.payload_eq`, `packChannel_full` and `packChannel_unused`. -/
theorem packEncodesTheResiduals : Obligations.PackEncodesTheResiduals := by
  intro s hres
  rw [exec_pack hres]
  refine ⟨fun hused hcap hwidth => ?_, fun hused hfull => ?_, fun i hi hunused hbefore hroom => ?_⟩
  · have hroom := le_payLimit_iff.2 ⟨hcap, hwidth⟩
    obtain ⟨t, p, ht, hp, hnb, happ⟩ := packChannel_fits hused (bytesOfBits_length _ ▸ hroom)
    have hbytes : bytesOfBits (residualBits s) = _ := happ.payload_eq hp hnb
    have hlen : (bytesOfBits (residualBits s)).length = t.payLen.toNat := by rw [hbytes, Memory.readBytes_length]
    refine ⟨complete t, ?_, rfl, rfl, hlen.symm, ?_, happ.emptied (fun _ => rfl) hnb, hnb, ?_,
      fun a ha => happ.outside a (.inr (hlen ▸ ha)), ?_⟩
    · rw [ht, endCommand_ok]
    · exact hlen ▸ hbytes.symm
    · rw [← residualBits_length]; exact bytesOfBits_length _
    · rw [happ.frame]; rfl
  · rw [packChannel_full hused (bytesOfBits_length _ ▸ hfull), endCommand_error]
  · rw [packChannel_unused hi hunused hbefore (le_payLimit_iff.2 hroom), endCommand_error]

end Sys2Proof.Machine
end

section
/-! SUPPORT. The bit unpacker (rules R168 to R170): `GetBit()` takes the first of the unread bits. -/

namespace Sys2Proof.Machine

section
variable {s : State}

theorem checkPay_within (h : overCap s.cfg.payCap s.payLen.toNat = false) : checkPay s = .ok () := by
  rw [checkPay_eq, h, if_neg Bool.false_ne_true]

/-- A bit is unread exactly when a payload byte is left. -/
theorem unreadBits_eq_nil_iff : unreadBits s = [] ↔ s.payLen.toNat ≤ s.upPos.toNat := by
  have := s.upBit.isLt
  rw [unreadBits, List.drop_eq_nil_iff, payloadBits_length, cursor]
  omega

/-- The first unread bit is the one under the cursor. -/
theorem head?_unreadBits (h : s.upPos.toNat < s.payLen.toNat) :
    (unreadBits s).head? = some ((s.pay.read s.upPos.toNat).getLsbD (7 - s.upBit.toNat)) := by
  rw [unreadBits, List.head?_drop, cursor, payloadBits, getElem?_flatMap_byteBits _ _ s.upBit.isLt]
  simp [Memory.readBytes, h]

theorem getBit_exhausted (h : unreadBits s = []) (k : Nat) : getBit k s = .error ⟨.streamExhausted, k, s.curch⟩ := by
  rw [getBit, if_pos (unreadBits_eq_nil_iff.1 h), State.failure]

theorem getBit_unread {b : Bool} {rest : List Bool} (h : unreadBits s = b :: rest) (k : Nat) :
    ∃ t, getBit k s = .ok (b, t) ∧ t = { s with upPos := t.upPos, upBit := t.upBit } ∧ cursor t = cursor s + 1 ∧
      unreadBits t = rest := by
  cases hg : getBit k s with
  | error e =>
    have hnil := unreadBits_eq_nil_iff.2 (getBit_error hg).1
    rw [h] at hnil
    cases hnil
  | ok p =>
    obtain ⟨b', t⟩ := p
    obtain ⟨hlt, hbit, hframe, hcursor⟩ := getBit_inv hg
    have hhead := head?_unreadBits hlt
    rw [h, List.head?_cons, ← hbit] at hhead
    have hpayload : payloadBits t = payloadBits s := by rw [hframe]; rfl
    refine ⟨t, by rw [Option.some.inj hhead], hframe, hcursor, ?_⟩
    calc unreadBits t = (unreadBits s).drop 1 := by rw [unreadBits, unreadBits, hpayload, hcursor, List.drop_drop]
      _ = rest := by rw [h, List.drop_one, List.tail_cons]

end

/-! ## The obligation on the unpacker -/

/-- Settles O40: the input check passes, and the next bit is that of `getBit_unread`, or there is none (`getBit_exhausted`). -/
theorem upBitReadsTheNextBit : Obligations.UpBitReadsTheNextBit := by
  intro s hcap
  refine ⟨fun b rest hunread => ?_, fun hnil => ?_⟩
  · obtain ⟨t, ht, hframe, hcursor, hrest⟩ := getBit_unread hunread 0
    refine ⟨complete { t with result := (BitVec.ofBool b).setWidth 32 }, ?_, rfl, rfl, ?_, hcursor, hrest, ?_⟩
    · rw [exec, execUpBit, upBitBody, checkPay_within hcap, ok_bind, ht]
      rfl
    · cases b <;> rfl
    · rw [hframe]; rfl
  · rw [exec, execUpBit, upBitBody, checkPay_within hcap, ok_bind, getBit_exhausted hnil]
    rfl

end Sys2Proof.Machine
end

section
/-! SUPPORT. The decoder (rules R180 to R183): following the unread bits through the trie is the walk along them. -/

namespace Sys2Proof.Machine

/-! ## Moving the cursor -/

/-- `t` is `s` with the bit cursor moved over `bits`, the first of its unread bits. -/
structure Consumes (bits : List Bool) (s t : State) : Prop where
  unread : unreadBits s = bits ++ unreadBits t
  cursor : cursor t = cursor s + bits.length
  frame : t = { s with upPos := t.upPos, upBit := t.upBit }

namespace Consumes
variable {bits more : List Bool} {s t u : State}

theorem refl (s : State) : Consumes [] s s := ⟨rfl, rfl, rfl⟩

theorem trans (h : Consumes bits s t) (h' : Consumes more t u) : Consumes (bits ++ more) s u where
  unread := by rw [h.unread, h'.unread, List.append_assoc]
  cursor := by rw [h'.cursor, h.cursor, List.length_append, Nat.add_assoc]
  frame := h'.frame.trans (by rw [h.frame])

theorem trie (h : Consumes bits s t) : t.trie = s.trie := (congrArg State.trie h.frame :)

theorem curch (h : Consumes bits s t) : t.curch = s.curch := (congrArg State.curch h.frame :)

theorem res (h : Consumes bits s t) : t.res = s.res := (congrArg State.res h.frame :)

end Consumes

theorem getBit_consumes {s : State} {b : Bool} {rest : List Bool} (h : unreadBits s = b :: rest) (k : Nat) :
    ∃ t, getBit k s = .ok (b, t) ∧ Consumes [b] s t ∧ unreadBits t = rest := by
  obtain ⟨t, ht, hframe, hcursor, hrest⟩ := getBit_unread h k
  exact ⟨t, ht, ⟨by rw [h, hrest]; rfl, hcursor, hframe⟩, hrest⟩

/-- The bound on the rounds of a decode is the number of unread bits (log 11). -/
theorem bitsLeft_eq_length (s : State) : bitsLeft s = (unreadBits s).length := by
  rw [bitsLeft, unreadBits, List.length_drop, payloadBits_length, cursor]

/-! ## One symbol -/

theorem decodeFrom_marked {s : State} {node : Nat} (h : (trieNode s.trie node).sym ≠ NONE) (fuel k : Nat) :
    decodeFrom fuel k node s = .ok ((trieNode s.trie node).sym.setWidth 8, s) := by
  unfold decodeFrom
  exact if_pos h

theorem decodeFrom_zero {s : State} {node : Nat} (h : (trieNode s.trie node).sym = NONE) (k : Nat) :
    decodeFrom 0 k node s = .error ⟨.streamExhausted, k, s.curch⟩ := by
  unfold decodeFrom
  exact if_neg (not_not.2 h)

theorem decodeFrom_succ {s : State} {node : Nat} (h : (trieNode s.trie node).sym = NONE) (fuel k : Nat) :
    decodeFrom (fuel + 1) k node s =
      getBit k s >>= fun p =>
        if (trieNode s.trie node).child p.1 = ABSENT then .error ⟨.corruptCodePath, k, p.2.curch⟩
        else decodeFrom fuel k ((trieNode s.trie node).child p.1).toNat p.2 := by
  conv_lhs => unfold decodeFrom
  refine (if_neg (not_not.2 h)).trans ?_
  cases getBit k s <;> rfl

theorem walkSymbol_marked {t : List TrieNode} {node : Nat} (h : (trieNode t node).sym ≠ NONE) (bits : List Bool) :
    walkSymbol t node bits = .ok ((trieNode t node).sym.setWidth 8, bits) := by
  cases bits <;> rw [walkSymbol, if_pos h]

theorem walkSymbol_nil {t : List TrieNode} {node : Nat} (h : (trieNode t node).sym = NONE) :
    walkSymbol t node [] = .error .streamExhausted := by
  rw [walkSymbol, if_neg (not_not.2 h)]

theorem walkSymbol_cons {t : List TrieNode} {node : Nat} (h : (trieNode t node).sym = NONE) (b : Bool) (bits : List Bool) :
    walkSymbol t node (b :: bits) =
      if (trieNode t node).child b = ABSENT then .error .corruptCodePath
      else walkSymbol t ((trieNode t node).child b).toNat bits := by
  rw [walkSymbol, if_neg (not_not.2 h)]

/-- What a decoder answers when a walk answers `w`: the same value behind the bits the walk used, or the walk's cause at
position `k`. -/
def AnswersWalk (k : Nat) (s : State) (w : Except Cause (Byte × List Bool)) (r : Except Raise (Byte × State)) : Prop :=
  match w with
  | .ok (v, rest) => ∃ bits t, r = .ok (v, t) ∧ Consumes bits s t ∧ unreadBits t = rest
  | .error c => r = .error ⟨c, k, s.curch⟩

/-- A decode from a state further on answers for the state before. -/
theorem AnswersWalk.after {k : Nat} {bits : List Bool} {s u : State} {w : Except Cause (Byte × List Bool)}
    {r : Except Raise (Byte × State)} (h : Consumes bits s u) (hr : AnswersWalk k u w r) : AnswersWalk k s w r := by
  cases w with
  | error c => exact hr.trans (by rw [h.curch])
  | ok p =>
    obtain ⟨more, t, ht, hc, hrest⟩ := hr
    exact ⟨bits ++ more, t, ht, h.trans hc, hrest⟩

/-- The loop of `DecodeSymbol()` is the walk along the unread bits (rule R180). -/
theorem decodeFrom_answersWalk {s : State} {bits : List Bool} (hbits : unreadBits s = bits) (k node : Nat) :
    AnswersWalk k s (walkSymbol s.trie node bits) (decodeFrom bits.length k node s) := by
  induction bits generalizing s node with
  | nil =>
    by_cases hmark : (trieNode s.trie node).sym = NONE
    · rw [walkSymbol_nil hmark]
      exact decodeFrom_zero hmark k
    · rw [walkSymbol_marked hmark]
      exact ⟨[], s, decodeFrom_marked hmark _ k, .refl s, hbits⟩
  | cons b bits ih =>
    by_cases hmark : (trieNode s.trie node).sym = NONE
    · obtain ⟨u, hu, hcons, hrest⟩ := getBit_consumes hbits k
      rw [walkSymbol_cons hmark, List.length_cons, decodeFrom_succ hmark, hu, ok_bind]
      split
      · exact AnswersWalk.after (w := .error .corruptCodePath) hcons rfl
      · rw [← hcons.trie]
        exact (ih hrest _).after hcons
    · rw [walkSymbol_marked hmark]
      exact ⟨[], s, decodeFrom_marked hmark _ k, .refl s, hbits⟩

theorem decodeSymbol_answersWalk (k : Nat) (s : State) :
    AnswersWalk k s (walkSymbol s.trie 0 (unreadBits s)) (decodeSymbol k s) := by
  rw [decodeSymbol, bitsLeft_eq_length]
  exact decodeFrom_answersWalk rfl k 0

theorem decodeSymbol_ok {k : Nat} {s : State} {v : Byte} {rest : List Bool}
    (h : walkSymbol s.trie 0 (unreadBits s) = .ok (v, rest)) :
    ∃ bits t, decodeSymbol k s = .ok (v, t) ∧ Consumes bits s t ∧ unreadBits t = rest := by
  have := decodeSymbol_answersWalk k s
  rwa [h] at this

theorem decodeSymbol_error {k : Nat} {s : State} {c : Cause} (h : walkSymbol s.trie 0 (unreadBits s) = .error c) :
    decodeSymbol k s = .error ⟨c, k, s.curch⟩ := by
  have := decodeSymbol_answersWalk k s
  rwa [h] at this

/-! ## The obligation on `TR.SYM` -/

theorem exec_trSym {s : State} (h : overCap s.cfg.payCap s.payLen.toNat = false) :
    exec .trSym s = .next (endCommand .e s (decodeSymbol 0 s >>= fun p => .ok { p.2 with result := p.1.setWidth 32 })) := by
  rw [exec, execTrSym, trSymBody, checkPay_within h]
  rfl

/-- Settles O44: behind the input check, `DecodeSymbol()` answers the walk along the unread bits. -/
theorem trSymDecodesOneSymbol : Obligations.TrSymDecodesOneSymbol := by
  intro s hcap
  rw [exec_trSym hcap]
  refine ⟨fun v rest hwalk => ?_, fun c hwalk => ?_⟩
  · obtain ⟨bits, t, ht, hcons, rfl⟩ := decodeSymbol_ok (k := 0) hwalk
    refine ⟨complete { t with result := v.setWidth 32 }, ?_, rfl, rfl, rfl, ?_, ?_⟩
    · rw [ht, ok_bind, endCommand_ok]
    · rw [hcons.unread, List.length_append, Nat.add_sub_cancel]
      exact hcons.cursor
    · rw [hcons.frame]; rfl
  · rw [decodeSymbol_error hwalk]
    rfl

/-! ## The whole channel -/

/-- `n` symbols that a walk decodes are stored in `RESMEM` from the first one's index on (rule R183). -/
theorem decodeSymbols_ok {n k : Nat} {s : State} {vs : List Byte} {rest : List Bool}
    (h : walkSymbols s.trie n k (unreadBits s) = .ok (vs, rest)) :
    ∃ bits t, decodeSymbols n k s = .ok { t with res := s.res.writeBytes k vs } ∧ Consumes bits s t ∧
      unreadBits t = rest ∧ vs.length = n := by
  induction n generalizing k s vs with
  | zero =>
    obtain ⟨rfl, rfl⟩ := Prod.mk.inj (Except.ok.inj h)
    exact ⟨[], s, rfl, .refl s, rfl, rfl⟩
  | succ n ih =>
    rw [walkSymbols] at h
    split at h
    · cases h
    · next v mid hv =>
      obtain ⟨bits, t, ht, hcons, rfl⟩ := decodeSymbol_ok (k := k) hv
      split at h
      · cases h
      · next ws rest' hws =>
        obtain ⟨rfl, rfl⟩ := Prod.mk.inj (Except.ok.inj h)
        rw [← hcons.trie] at hws
        obtain ⟨more, u, hu, hmore, hrest, hlen⟩ := ih (s := { t with res := t.res.write k v }) hws
        refine ⟨bits ++ more, { u with res := s.res }, ?_, hcons.trans ?_, hrest, by rw [List.length_cons, hlen]⟩
        · rw [decodeSymbols_succ, ht, ok_bind, hu, Memory.writeBytes, hcons.res]
        · exact ⟨hmore.unread, hmore.cursor, by rw [hmore.frame, ← hcons.res]⟩

/-- Where a walk stops, the decoder raises at the index of that symbol (rules R169, R183). -/
theorem decodeSymbols_error {n k i : Nat} {s : State} {c : Cause} (h : walkSymbols s.trie n k (unreadBits s) = .error (c, i)) :
    decodeSymbols n k s = .error ⟨c, i, s.curch⟩ := by
  induction n generalizing k s with
  | zero => cases h
  | succ n ih =>
    rw [walkSymbols] at h
    rw [decodeSymbols_succ]
    split at h
    · next c' hc =>
      obtain ⟨rfl, rfl⟩ := Prod.mk.inj (Except.error.inj h)
      rw [decodeSymbol_error hc]
      rfl
    · next v mid hv =>
      obtain ⟨bits, t, ht, hcons, rfl⟩ := decodeSymbol_ok (k := k) hv
      split at h
      · next e he =>
        obtain rfl := Except.error.inj h
        rw [← hcons.trie] at he
        rw [ht, ok_bind, ih (s := { t with res := t.res.write k v }) he, ← hcons.curch]
      · cases h

/-! ## The obligation on `DEC` -/

theorem unreadBits_unpackInit (s : State) : unreadBits (unpackInit s) = payloadBits s := rfl

theorem exec_dec {s : State} (hres : overCap s.cfg.resCap s.resN.toNat = false)
    (hpay : overCap s.cfg.payCap s.payLen.toNat = false) :
    exec .dec s = .next (endCommand .e s (decodeSymbols s.resN.toNat 0 (unpackInit s))) := by
  rw [exec, execDec, decBody_of_res_within hres, checkPay_within hpay]
  rfl

/-- Settles O45: behind the input checks, the symbols are those of the walk along the payload bits. -/
theorem decDecodesTheChannel : Obligations.DecDecodesTheChannel := by
  intro s hres hpay
  rw [exec_dec hres hpay]
  refine ⟨fun vs rest hwalk => ?_, fun c i hwalk => ?_⟩
  · obtain ⟨bits, t, ht, hcons, rfl, hlen⟩ := decodeSymbols_ok (s := unpackInit s) hwalk
    refine ⟨complete { t with res := s.res.writeBytes 0 vs }, ?_, rfl, rfl, hlen, ?_, fun a ha => ?_, ?_, ?_⟩
    · rw [ht, endCommand_ok]; rfl
    · rw [← hlen]
      exact s.res.readBytes_writeBytes 0 vs
    · exact s.res.read_writeBytes_outside vs (.inr (by omega))
    · have htotal := congrArg List.length hcons.unread
      rw [unreadBits_unpackInit, payloadBits_length, List.length_append] at htotal
      have hcursor : cursor t = 0 + bits.length := hcons.cursor
      rw [htotal]
      exact congrArg (· + (unreadBits t).length) (hcursor.trans (Nat.zero_add _))
    · rw [hcons.frame]; rfl
  · rw [decodeSymbols_error (s := unpackInit s) hwalk]
    rfl

end Sys2Proof.Machine
end

section
/-! SUPPORT. Walks through a trie that spells paths, and the `TRIE` command (rules R176 to R180). -/

namespace Sys2Proof.Machine

open Claims (walkTo)

/-! ## Walks -/

namespace Spells
variable {t : List TrieNode} {paths : List (List Bool)} {mark : List Bool → BitVec 9} {node : Nat} {p : List Bool}

/-- An edge of a longer path is there, and it leads to the node of the path with its bit. -/
theorem follow (h : Spells t paths mark) (hsize : t.length ≤ 65535) (hn : paths[node]? = some p) {b : Bool}
    (hb : p ++ [b] ∈ paths) :
    (trieNode t node).child b ≠ ABSENT ∧ paths[((trieNode t node).child b).toNat]? = some (p ++ [b]) :=
  ⟨fun e => (h.child_absent_iff hsize hn b).1 e hb, h.edge hn hb⟩

/-- A walk along the rest of a path reaches the path's node. -/
theorem walkTo (h : Spells t paths mark) (hsize : t.length ≤ 65535) {bits : List Bool} (hn : paths[node]? = some p)
    (hpath : p ++ bits ∈ paths) : ∃ n, walkTo t node bits = some n ∧ paths[n]? = some (p ++ bits) := by
  induction bits generalizing node p with
  | nil => exact ⟨node, rfl, by rw [List.append_nil]; exact hn⟩
  | cons b bits ih =>
    rw [List.append_cons] at hpath ⊢
    obtain ⟨hb, hedge⟩ := h.follow hsize hn (h.prefix_mem (List.prefix_append _ _) hpath)
    obtain ⟨n, hwalk, hpn⟩ := ih hedge hpath
    exact ⟨n, by rw [Claims.walkTo, if_neg hb, hwalk], hpn⟩

/-- A decode along the rest of a path, marked at its end and not before, ends there with the mark (rule R180). -/
theorem walkSymbol (h : Spells t paths mark) (hsize : t.length ≤ 65535) {bits : List Bool} (more : List Bool)
    (hn : paths[node]? = some p) (hmark : mark (p ++ bits) ≠ NONE)
    (hfirst : ∀ q, q <+: p ++ bits → mark q ≠ NONE → q = p ++ bits) :
    walkSymbol t node (bits ++ more) = .ok ((mark (p ++ bits)).setWidth 8, more) := by
  induction bits generalizing node p with
  | nil =>
    rw [List.append_nil] at hmark ⊢
    rw [List.nil_append, walkSymbol_marked (by rwa [h.sym hn]), h.sym hn]
  | cons b bits ih =>
    have hnone : (trieNode t node).sym = NONE := by
      rw [h.sym hn]
      by_contra hp
      simpa using hfirst p (List.prefix_append _ _) hp
    rw [List.append_cons] at hmark hfirst ⊢
    obtain ⟨hb, hedge⟩ := h.follow hsize hn (h.prefix_mem (List.prefix_append _ _) (h.marked hmark))
    rw [List.cons_append, walkSymbol_cons hnone, if_neg hb]
    exact ih hedge hmark hfirst

/-- The marks of the nodes are those of their paths. -/
theorem map_sym (h : Spells t paths mark) : t.map TrieNode.sym = paths.map mark := by
  refine List.ext_getElem (by simp [h.length]) fun i hi _ => ?_
  have hlt : i < t.length := by simpa using hi
  have hsym := h.sym (List.getElem?_eq_getElem (h.length ▸ hlt))
  simpa [trieNode, hlt] using hsym

end Spells

/-! ## The trie of a valid table -/

section
variable {len : Vector (BitVec 8) 256} {t : List TrieNode} {paths : List (List Bool)} {mark : List Bool → BitVec 9}

theorem HoldsCodes.length_le {tbl : Table} (h : HoldsCodes tbl symbols t paths mark) : t.length ≤ 65535 := by
  have := h.size
  rw [h.length, symbols_length] at this
  omega

theorem HoldsCodes.symbol_mem {tbl : Table} {v : Byte} (h : HoldsCodes tbl symbols t paths mark) (hv : tbl.len[v.toNat] ≠ 0) :
    symbolBits tbl v ∈ paths :=
  h.marked (h.ends v (mem_symbols v) hv)

/-- In a valid table the end of a code is marked with its symbol (rule R184). -/
theorem HoldsCodes.mark_symbolBits (hk : KraftValid len) (h : HoldsCodes (canonicalTable len) symbols t paths mark) {v : Byte}
    (hv : len[v.toNat] ≠ 0) : mark (symbolBits (canonicalTable len) v) = BitVec.ofNat 9 v.toNat := by
  obtain ⟨u, -, hu, hbits, hm⟩ := h.markOf _ (h.ends v (mem_symbols v) hv)
  rw [hm, symbolBits_prefix hk hv hu (by rw [hbits])]

/-- The mark of a symbol, read as a byte, is the symbol (rule R180). -/
theorem setWidth_symbolMark (v : Byte) : (BitVec.ofNat 9 v.toNat).setWidth 8 = v := by
  refine BitVec.eq_of_toNat_eq ?_
  rw [BitVec.toNat_setWidth, symbolMark_toNat]
  exact Nat.mod_eq_of_lt v.isLt

/-- A symbol's code decodes to the symbol, whatever bits follow (rules R180, R184). -/
theorem walkSymbol_symbolBits (hk : KraftValid len) {v : Byte} (hv : len[v.toNat] ≠ 0) (more : List Bool) :
    walkSymbol (trieOf (canonicalTable len)) 0 (symbolBits (canonicalTable len) v ++ more) = .ok (v, more) := by
  obtain ⟨paths, mark, h⟩ := trieOf_holdsCodes (canonicalTable len)
  have hmark := h.mark_symbolBits hk hv
  rw [h.toSpells.walkSymbol h.length_le more h.root, List.nil_append, hmark, setWidth_symbolMark]
  · rw [List.nil_append, hmark]
    exact symbolMark_ne_none v
  · intro q hq hqm
    obtain ⟨u, -, hu, rfl, -⟩ := h.markOf q hqm
    rw [symbolBits_prefix hk hu hv hq]
    rfl

/-- The codes of symbols decode to the symbols, whatever bits follow (rules R183, R185). -/
theorem walkSymbols_flatMap (hk : KraftValid len) {vs : List Byte} (hvs : ∀ v ∈ vs, len[v.toNat] ≠ 0) (k : Nat)
    (more : List Bool) :
    walkSymbols (trieOf (canonicalTable len)) vs.length k (vs.flatMap (symbolBits (canonicalTable len)) ++ more) =
      .ok (vs, more) := by
  induction vs generalizing k with
  | nil => rfl
  | cons v vs ih =>
    rw [List.forall_mem_cons] at hvs
    have hrest := ih hvs.2 (k + 1)
    simp only [List.length_cons, walkSymbols, List.flatMap_cons, List.append_assoc, walkSymbol_symbolBits hk hvs.1, hrest]

end

/-! ## The obligation on `TRIE` -/

theorem insertOf_unused {tbl : Table} {v : Byte} (h : tbl.len[v.toNat] = 0) (t : List TrieNode) : insertOf tbl t v = t := by
  rw [insertOf, insertSymbol, if_pos h]

/-- The trie of a table is built from its used symbols alone (rule R178). -/
theorem trieOf_eq_foldl_used (tbl : Table) :
    trieOf tbl = (symbols.filter fun v => tbl.len[v.toNat] ≠ 0).foldl (insertOf tbl) [TrieNode.fresh] := by
  rw [trieOf_eq_foldl_symbols, List.foldl_filter]
  refine List.foldl_ext _ _ _ fun t v _ => ?_
  by_cases hv : tbl.len[v.toNat] = 0
  · rw [if_neg (by simpa using hv), insertOf_unused hv]
  · rw [if_pos (by simpa using hv)]

theorem trieOf_length_pos (tbl : Table) : 1 ≤ (trieOf tbl).length := by
  obtain ⟨paths, mark, h⟩ := trieOf_holdsCodes tbl
  exact h.lt_length h.root

theorem trieOf_unused {tbl : Table} (h : ∀ v : Fin 256, tbl.len[v] = 0) : trieOf tbl = [TrieNode.fresh] := by
  have hnone : (symbols.filter fun v => tbl.len[v.toNat] ≠ 0) = [] :=
    List.filter_eq_nil_iff.2 fun v _ => by simpa using h v.toFin
  rw [trieOf_eq_foldl_used, hnone, List.foldl_nil]

/-- The symbols of the worked example of rule R179. -/
theorem filter_symbols_R179 : (symbols.filter fun v => v = 10 ∨ v.toNat < 2) = [0, 1, 10] := by decide +kernel

/-- The worked example of rule R179. -/
theorem trieOf_R179 {tbl : Table} (hlen : ∀ v : Fin 256, tbl.len[v].toNat = if v = 10 then 1 else if v < 2 then 2 else 0)
    (h0 : tbl.code[0] = 2) (h1 : tbl.code[1] = 3) (h10 : tbl.code[10] = 0) :
    trieOf tbl =
      [⟨4, 1, 0x100⟩, ⟨2, 3, 0x100⟩, ⟨0xFFFF, 0xFFFF, 0⟩, ⟨0xFFFF, 0xFFFF, 1⟩, ⟨0xFFFF, 0xFFFF, 10⟩] := by
  have hused : (symbols.filter fun v => tbl.len[v.toNat] ≠ 0) = [0, 1, 10] := by
    rw [← filter_symbols_R179]
    refine List.filter_congr fun v _ => decide_eq_decide.2 ?_
    have hv : tbl.len[v.toNat].toNat = _ := hlen v.toFin
    have hten : v.toFin = 10 ↔ v = 10 := by simp [BitVec.toNat_eq, Fin.ext_iff]
    have htwo : v.toFin < 2 ↔ v.toNat < 2 := Iff.rfl
    rw [ne_eq, BitVec.toNat_eq, hv]
    simp only [hten, htwo]
    split_ifs with h h'
    · simp [h]
    · simp [h']
    · simpa [h'] using h
  have l0 : tbl.len[0] = 2 := BitVec.eq_of_toNat_eq (hlen 0)
  have l1 : tbl.len[1] = 2 := BitVec.eq_of_toNat_eq (hlen 1)
  have l10 : tbl.len[10] = 1 := BitVec.eq_of_toNat_eq (hlen 10)
  have e0 (t : List TrieNode) : insertOf tbl t 0 = insertSymbol t 0 2 2 := congrArg₂ (insertSymbol t 0) l0 h0
  have e1 (t : List TrieNode) : insertOf tbl t 1 = insertSymbol t 1 2 3 := congrArg₂ (insertSymbol t 1) l1 h1
  have e10 (t : List TrieNode) : insertOf tbl t 10 = insertSymbol t 10 1 0 := congrArg₂ (insertSymbol t 10) l10 h10
  simp only [trieOf_eq_foldl_used, hused, List.foldl_cons, List.foldl_nil, e0, e1, e10]
  decide

/-- Settles O41: the root is a path of every trie, the trie of no used symbol is that root, and the three insertions of the
worked example by evaluation. -/
theorem trieCommandCompletes : Obligations.TrieCommandCompletes :=
  ⟨fun s => ⟨rfl, trieOf_length_pos s.tbl⟩, fun _ h => trieOf_unused h,
    fun _ hlen ⟨h0, h1, h10⟩ => trieOf_R179 hlen h0 h1 h10⟩

end Sys2Proof.Machine
end

section
/-! SUPPORT. Kraft sums of codes of which none begins another (rule R150): the weight of the codes below a path is at most that
of a code of the path's length, and the codes are complete exactly when every path that is no code goes on with both bits. -/

namespace Sys2Proof.Machine

/-- No code is the beginning of another, and no code is longer than 255 bits (rules R156, R157). -/
structure PrefixCode (cs : List (List Bool)) : Prop where
  nodup : cs.Nodup
  free : ∀ {c d}, c ∈ cs → d ∈ cs → c <+: d → c = d
  length_le : ∀ {c}, c ∈ cs → c.length ≤ 255

/-- Some code begins with the bits. -/
def Begins (cs : List (List Bool)) (q : List Bool) : Prop := ∃ c ∈ cs, q <+: c

/-- The Kraft sum, in units of `2^-255`, of the codes that begin with the bits (rule R150). -/
def weightBelow (cs : List (List Bool)) (q : List Bool) : Nat :=
  (cs.map fun c => if q <+: c then 2 ^ (255 - c.length) else 0).sum

/-- The codes that begin with the bits weigh as much as one code of just these bits. -/
def Full (cs : List (List Bool)) (q : List Bool) : Prop := weightBelow cs q = 2 ^ (255 - q.length)

section
variable {cs : List (List Bool)} {q : List Bool}

theorem weightBelow_of_not_begins (h : ¬ Begins cs q) : weightBelow cs q = 0 := by
  refine List.sum_eq_zero fun x hx => ?_
  obtain ⟨c, hc, rfl⟩ := List.mem_map.1 hx
  exact if_neg fun hq => h ⟨c, hc, hq⟩

theorem Full.begins (h : Full cs q) : Begins cs q := by
  by_contra hq
  have hpos := Nat.two_pow_pos (255 - q.length)
  rw [← h, weightBelow_of_not_begins hq] at hpos
  exact hpos.false

/-- A code that begins with the bits and is longer goes on with exactly one of the two bits. -/
theorem ite_prefix_split {c : List Bool} (h : c ≠ q) (w : Nat) :
    (if q <+: c then w else 0) = (if q ++ [false] <+: c then w else 0) + if q ++ [true] <+: c then w else 0 := by
  by_cases hq : q <+: c
  · obtain ⟨r, rfl⟩ := hq
    cases r with
    | nil => simp at h
    | cons b r => cases b <;> simp
  · have hlonger (b : Bool) : ¬ q ++ [b] <+: c := fun hb => hq ((List.prefix_append _ _).trans hb)
    simp [hq, hlonger]

/-- The weight below a path that is no code is that below its two longer paths. -/
theorem weightBelow_split (h : q ∉ cs) :
    weightBelow cs q = weightBelow cs (q ++ [false]) + weightBelow cs (q ++ [true]) := by
  rw [weightBelow, weightBelow, weightBelow, ← List.sum_map_add]
  exact congrArg List.sum (List.map_congr_left fun c hc => ite_prefix_split (ne_of_mem_of_not_mem hc h) _)

/-- Behind both bits, half the weight of a code each. -/
theorem two_pow_length_split (hq : q.length < 255) (b : Bool) :
    2 ^ (255 - q.length) = 2 * 2 ^ (255 - (q ++ [b]).length) := by
  rw [List.length_append, List.length_singleton, ← pow_succ', show 255 - (q.length + 1) + 1 = 255 - q.length by omega]

namespace PrefixCode

/-- Below a code there is that code alone. -/
theorem full_of_mem (h : PrefixCode cs) (hq : q ∈ cs) : Full cs q := by
  rw [Full, weightBelow, ← List.sum_toFinset _ h.nodup, Finset.sum_eq_single_of_mem q (List.mem_toFinset.2 hq),
    if_pos (List.prefix_refl q)]
  exact fun c hc hne => if_neg fun hp => hne (h.free hq (List.mem_toFinset.1 hc) hp).symm

/-- A beginning of a code that is no code is shorter than a code may be. -/
theorem length_lt (h : PrefixCode cs) (hb : Begins cs q) (hq : q ∉ cs) : q.length < 255 := by
  obtain ⟨c, hc, hp⟩ := hb
  have hle := h.length_le hc
  refine lt_of_le_of_ne (hp.length_le.trans hle) fun e => hq ?_
  rwa [hp.eq_of_length (le_antisymm hp.length_le (hle.trans e.ge))]

/-- The Kraft inequality, below every path. -/
theorem weightBelow_le (h : PrefixCode cs) (q : List Bool) : weightBelow cs q ≤ 2 ^ (255 - q.length) := by
  induction hn : 255 - q.length generalizing q with
  | zero =>
    by_cases hq : q ∈ cs
    · exact (h.full_of_mem hq).le.trans_eq (by rw [hn])
    · have hnone : ¬ Begins cs q := fun hb => by have := h.length_lt hb hq; omega
      rw [weightBelow_of_not_begins hnone]
      exact Nat.zero_le _
  | succ n ih =>
    by_cases hq : q ∈ cs
    · exact (h.full_of_mem hq).le.trans_eq (by rw [hn])
    · have h0 := ih (q ++ [false]) (by simp; omega)
      have h1 := ih (q ++ [true]) (by simp; omega)
      rw [weightBelow_split hq, pow_succ]
      omega

/-- A path that is no code is full exactly when both longer paths are. -/
theorem full_iff_children (h : PrefixCode cs) (hq : q ∉ cs) (hlt : q.length < 255) :
    Full cs q ↔ ∀ b, Full cs (q ++ [b]) := by
  have h0 := h.weightBelow_le (q ++ [false])
  have h1 := h.weightBelow_le (q ++ [true])
  have e0 := two_pow_length_split hlt false
  have e1 := two_pow_length_split hlt true
  rw [Bool.forall_bool, Full, Full, Full, weightBelow_split hq]
  omega

/-- In a complete code every beginning of a code is full. -/
theorem full_of_begins (h : PrefixCode cs) (hroot : Full cs []) (hb : Begins cs q) : Full cs q := by
  induction q using List.reverseRecOn with
  | nil => exact hroot
  | append_singleton q b ih =>
    obtain ⟨c, hc, hp⟩ := hb
    have hqc : q <+: c := (List.prefix_append _ _).trans hp
    have hq : q ∉ cs := fun hq => by
      have := hp.length_le
      rw [h.free hq hc hqc] at this
      simp at this
    exact (h.full_iff_children hq (h.length_lt ⟨c, hc, hqc⟩ hq)).1 (ih ⟨c, hc, hqc⟩) b

/-- A code in which every path that is no code goes on with both bits is full below every path. -/
theorem full_of_branching (h : PrefixCode cs)
    (hall : ∀ q, (q = [] ∨ Begins cs q) → q ∉ cs → ∀ b, Begins cs (q ++ [b])) (hq : q = [] ∨ Begins cs q) :
    Full cs q := by
  induction hn : 255 - q.length generalizing q with
  | zero =>
    by_contra hfull
    have hcs : q ∉ cs := fun hc => hfull (h.full_of_mem hc)
    obtain ⟨c, hc, hp⟩ := hall q hq hcs false
    have := h.length_lt ⟨c, hc, (List.prefix_append _ _).trans hp⟩ hcs
    omega
  | succ n ih =>
    by_cases hcs : q ∈ cs
    · exact h.full_of_mem hcs
    · have hchildren := hall q hq hcs
      refine (h.full_iff_children hcs (by omega)).2 fun b => ih (.inr (hchildren b)) (by simp; omega)

/-- A code is complete exactly when every path that is no code goes on with both bits. -/
theorem full_nil_iff (h : PrefixCode cs) :
    Full cs [] ↔ ∀ q, (q = [] ∨ Begins cs q) → q ∉ cs → ∀ b, Begins cs (q ++ [b]) := by
  refine ⟨fun hroot q hq hcs b => ?_, fun hall => h.full_of_branching hall (.inl rfl)⟩
  have hfull : Full cs q := hq.elim (fun e => e ▸ hroot) (h.full_of_begins hroot)
  exact ((h.full_iff_children hcs (h.length_lt hfull.begins hcs)).1 hfull b).begins

end PrefixCode

end

end Sys2Proof.Machine
end

section
/-! SUPPORT. The codes of a table as a code in which none begins another, and the leaves of its trie (rule R184). -/

namespace Sys2Proof.Machine

/-- The symbols with a code. -/
def codedSymbols (tbl : Table) : List Byte := symbols.filter fun v => tbl.len[v.toNat] ≠ 0

/-- The codes of a table. -/
def codesOf (tbl : Table) : List (List Bool) := (codedSymbols tbl).map (symbolBits tbl)

theorem mem_codedSymbols {tbl : Table} {v : Byte} : v ∈ codedSymbols tbl ↔ tbl.len[v.toNat] ≠ 0 := by
  simp [codedSymbols, mem_symbols]

theorem mem_codesOf {tbl : Table} {q : List Bool} : q ∈ codesOf tbl ↔
    ∃ v : Byte, tbl.len[v.toNat] ≠ 0 ∧ symbolBits tbl v = q := by
  simp only [codesOf, List.mem_map, mem_codedSymbols]

theorem symbols_nodup : symbols.Nodup :=
  (List.nodup_finRange 256).map fun _ _ e => Fin.ext (congrArg BitVec.toNat e :)

section
variable {len : Vector (BitVec 8) 256}

theorem codesOf_prefixCode (hk : KraftValid len) : PrefixCode (codesOf (canonicalTable len)) where
  nodup := by
    refine List.Nodup.map_on (fun u hu v hv e => ?_) (symbols_nodup.filter _)
    exact symbolBits_prefix hk (mem_codedSymbols.1 hu) (mem_codedSymbols.1 hv) (by rw [e])
  free hc hd hp := by
    obtain ⟨u, hu, rfl⟩ := mem_codesOf.1 hc
    obtain ⟨v, hv, rfl⟩ := mem_codesOf.1 hd
    rw [symbolBits_prefix hk hu hv hp]
  length_le hc := by
    obtain ⟨v, -, rfl⟩ := mem_codesOf.1 hc
    rw [symbolBits_length]
    exact Nat.le_of_lt_succ (canonicalTable len).len[v.toNat].isLt

/-- The Kraft sum counts the symbols with a code (rule R150). -/
theorem kraftSum_map_length (vs : List Byte) :
    kraftSum (vs.map fun v => len[v.toNat].toNat) =
      ((vs.filter fun v => len[v.toNat] ≠ 0).map fun v => 2 ^ (255 - len[v.toNat].toNat)).sum := by
  induction vs with
  | nil => rfl
  | cons v vs ih =>
    by_cases hv : len[v.toNat] = 0
    · simp [kraftSum_cons, ih, hv]
    · rw [List.filter_cons_of_pos (by simpa using hv), List.map_cons, List.map_cons, List.sum_cons, kraftSum_cons, ih,
        if_neg (length_toNat_ne_zero hv)]

/-- A table's code is complete when its Kraft sum is 1, which is `2^255` in its units (rule R150). -/
theorem full_codesOf_iff : Full (codesOf (canonicalTable len)) [] ↔ kraftSum (lengthList len) = 2 ^ 255 := by
  have hlen : lengthList len = symbols.map fun v => len[v.toNat].toNat := by
    rw [lengthList_eq_map, symbols, List.map_map]; rfl
  have hweight : weightBelow (codesOf (canonicalTable len)) [] = kraftSum (lengthList len) := by
    rw [hlen, kraftSum_map_length, weightBelow, codesOf, List.map_map]
    refine congrArg List.sum (List.map_congr_left fun v _ => ?_)
    rw [Function.comp_apply, if_pos List.nil_prefix, symbolBits_length, canonicalTable_len]
  rw [Full, hweight]
  rfl

variable {t : List TrieNode} {paths : List (List Bool)} {mark : List Bool → BitVec 9}

namespace HoldsCodes
variable {tbl : Table} (h : HoldsCodes tbl symbols t paths mark)
include h

theorem mem_paths_iff {q : List Bool} : q ∈ paths ↔ q = [] ∨ Begins (codesOf tbl) q := by
  simp only [h.mem, mem_symbols, true_and, Begins, mem_codesOf, exists_exists_and_eq_and]

theorem mark_ne_none_iff {q : List Bool} : mark q ≠ NONE ↔ q ∈ codesOf tbl := by
  refine ⟨fun hq => ?_, fun hq => ?_⟩
  · obtain ⟨v, -, hv, rfl, -⟩ := h.markOf q hq
    exact mem_codesOf.2 ⟨v, hv, rfl⟩
  · obtain ⟨v, hv, rfl⟩ := mem_codesOf.1 hq
    exact h.ends v (mem_symbols v) hv

/-- Every node without a mark has both children exactly when every path that is no code goes on with both bits. -/
theorem branching_iff :
    (∀ n, n < t.length → (trieNode t n).sym = NONE → ∀ b, (trieNode t n).child b ≠ ABSENT) ↔
      ∀ q, (q = [] ∨ Begins (codesOf tbl) q) → q ∉ codesOf tbl → ∀ b, Begins (codesOf tbl) (q ++ [b]) := by
  have hchild {n : Nat} {q : List Bool} (hn : paths[n]? = some q) (b : Bool) :
      (trieNode t n).child b ≠ ABSENT ↔ Begins (codesOf tbl) (q ++ [b]) := by
    rw [ne_eq, h.child_absent_iff h.length_le hn, not_not, h.mem_paths_iff, or_iff_right (by simp)]
  have hsym {n : Nat} {q : List Bool} (hn : paths[n]? = some q) : (trieNode t n).sym = NONE ↔ q ∉ codesOf tbl := by
    rw [← h.mark_ne_none_iff, not_not, h.sym hn]
  refine ⟨fun hall q hq hcs b => ?_, fun hall n hlt hnone b => ?_⟩
  · obtain ⟨n, hn⟩ := List.mem_iff_getElem?.1 (h.mem_paths_iff.2 hq)
    exact (hchild hn b).1 (hall n (h.lt_length hn) ((hsym hn).2 hcs) b)
  · obtain ⟨q, hn⟩ := h.exists_path hlt
    exact (hchild hn b).2 (hall q (h.mem_paths_iff.1 (List.mem_of_getElem? hn)) ((hsym hn).1 hnone) b)

end HoldsCodes

/-- As many nodes are marked as symbols have a code. -/
theorem HoldsCodes.countP_marked (hk : KraftValid len) (h : HoldsCodes (canonicalTable len) symbols t paths mark) :
    (t.countP fun n => n.sym ≠ NONE) = (List.finRange 256).countP fun v => len[v] ≠ 0 := by
  have hperm : (paths.filter fun q => mark q ≠ NONE).Perm (codesOf (canonicalTable len)) := by
    refine (List.perm_ext_iff_of_nodup (h.nodup.filter _) (codesOf_prefixCode hk).nodup).2 fun q => ?_
    rw [List.mem_filter, decide_eq_true_eq, ← h.mark_ne_none_iff]
    exact and_iff_right_of_imp h.marked
  calc (t.countP fun n => n.sym ≠ NONE)
      = (t.map TrieNode.sym).countP (· ≠ NONE) := by rw [List.countP_map]; rfl
    _ = (paths.filter fun q => mark q ≠ NONE).length := by
        rw [h.map_sym, List.countP_map, ← List.countP_eq_length_filter]; rfl
    _ = (codedSymbols (canonicalTable len)).length := by rw [hperm.length_eq, codesOf, List.length_map]
    _ = _ := by rw [codedSymbols, ← List.countP_eq_length_filter, symbols, List.countP_map]; rfl

end

/-! ## The obligation on the leaves -/

/-- Settles O42: the marked paths are the codes, a walk along a code reaches its node, and the trie branches at every node
without a mark exactly when the code is complete (`PrefixCode.full_nil_iff`). -/
theorem trieHasOneLeafPerUsedSymbol : Obligations.TrieHasOneLeafPerUsedSymbol := by
  intro len hk
  obtain ⟨paths, mark, h⟩ := trieOf_holdsCodes (canonicalTable len)
  have hreach {v : Byte} (hv : len[v.toNat] ≠ 0) :=
    h.toSpells.walkTo h.length_le (bits := symbolBits (canonicalTable len) v) h.root (h.symbol_mem hv)
  have hcomplete := h.branching_iff.trans ((codesOf_prefixCode hk).full_nil_iff.symm.trans full_codesOf_iff)
  refine ⟨fun v hv => ?_, fun n hn hmark => ?_, h.countP_marked hk, fun hsum n hn hnone => ?_, fun hsum => ?_⟩
  · obtain ⟨n, hwalk, hn⟩ := hreach hv
    refine ⟨n, hwalk, ?_⟩
    rw [h.sym hn, List.nil_append, h.mark_symbolBits hk hv, symbolMark_toNat]
  · obtain ⟨q, hq⟩ := h.exists_path hn
    obtain ⟨v, -, hv, rfl, -⟩ := h.markOf q (h.sym hq ▸ hmark)
    obtain ⟨m, hwalk, hm⟩ := hreach hv
    exact ⟨v, hv, hwalk.trans (congrArg some (h.node_unique hm hq))⟩
  · have hall := hcomplete.2 hsum n hn hnone
    exact ⟨hall false, hall true⟩
  · by_contra hno
    refine hsum (hcomplete.1 fun n hn hnone b habs => hno ⟨n, hn, hnone, ?_⟩)
    cases b
    · exact .inl habs
    · exact .inr habs

end Sys2Proof.Machine
end

section
/-! SUPPORT. Decoding inverts packing (rule R185): what a completed `PACK` leaves, and that its payload decodes to the
residuals. -/

namespace Sys2Proof.Machine

/-! ## A completed `PACK` -/

/-- A command that ends in DONE has not raised. -/
theorem endCommand_done {cls : ErrClass} {s t : State} {r : Except Raise State}
    (h : Host.Outcome.next (endCommand cls s r) = (.next t : Host.Outcome State Fault Refusal)) (hdone : t.status = .done) :
    ∃ u, r = .ok u ∧ t = complete u := by
  obtain rfl := Host.Outcome.next.inj h
  cases r with
  | ok u => exact ⟨u, rfl, rfl⟩
  | error e => simp at hdone

/-- Symbols that are packed all have a code (rule R165). -/
theorem putSymbols_ok_used {vs : List Byte} {s t : State} (h : putSymbols vs s = .ok t) :
    ∀ v ∈ vs, s.tbl.len[v.toNat] ≠ 0 := by
  induction vs generalizing s with
  | nil => nofun
  | cons v vs ih =>
    rw [putSymbols_cons] at h
    by_cases hv : s.tbl.len[v.toNat] = 0
    · rw [putSymbol_unused hv] at h
      cases h
    · cases hput : putSymbol v s with
      | error e => rw [hput] at h; cases h
      | ok u =>
        rw [hput] at h
        have htbl : u.tbl = s.tbl := (congrArg State.tbl (putSymbol_frame hput) :)
        have hrest := ih h
        rw [htbl] at hrest
        exact List.forall_mem_cons.2 ⟨hv, hrest⟩

section
variable {s t : State}

/-- `PackChannel()`, when it completes: every residual has a code, and the payload is the codes, padded, within the capacity. -/
theorem packChannel_ok (h : packChannel s = .ok t) :
    (∀ v ∈ s.resBytes, s.tbl.len[v.toNat] ≠ 0) ∧ overCap s.cfg.payCap t.payLen.toNat = false ∧
      ∃ p, payloadBits t = residualBits s ++ List.replicate p false := by
  have hused : ∀ v ∈ s.resBytes, s.tbl.len[v.toNat] ≠ 0 := by
    cases hput : putSymbols s.resBytes (packInit s) with
    | error e => rw [packChannel, hput] at h; cases h
    | ok u => exact putSymbols_ok_used (s := packInit s) hput
  have hused' : ∀ i, i < s.resN.toNat → s.tbl.len[(s.res.read i).toNat] ≠ 0 := by
    simpa [resBytes_eq] using hused
  have hroom : ((residualBits s).length + 7) / 8 ≤ payLimit s.cfg.payCap := by
    by_contra hfull
    rw [packChannel_full hused' (Nat.lt_of_not_le hfull)] at h
    cases h
  obtain ⟨u, p, hu, hp, hnb, happ⟩ := packChannel_fits hused' hroom
  obtain rfl : u = t := Except.ok.inj (hu.symm.trans h)
  have hlen := congrArg List.length (happ.payload_eq hp hnb)
  rw [bytesOfBits_length, Memory.readBytes_length] at hlen
  have hnone : pendingBits u = [] := by rw [pendingBits, hnb]; rfl
  have hstream := happ.stream
  rw [streamBits_eq, hnone, List.append_nil] at hstream
  exact ⟨hused, (le_payLimit_iff.1 (hlen ▸ hroom)).1, p, hstream⟩

/-- `PACK`, when it ends in DONE. -/
theorem exec_pack_done (h : exec .pack s = .next t) (hdone : t.status = .done) :
    overCap s.cfg.resCap s.resN.toNat = false ∧ ∃ u, packChannel s = .ok u ∧ t = complete u := by
  cases hres : overCap s.cfg.resCap s.resN.toNat with
  | false =>
    rw [exec_pack hres] at h
    exact ⟨rfl, endCommand_done h hdone⟩
  | true =>
    obtain ⟨u, hu, -⟩ := endCommand_done h hdone
    rw [packBody, checkRes_over hres] at hu
    cases hu

theorem residualBits_eq_flatMap (s : State) : residualBits s = s.resBytes.flatMap (symbolBits s.tbl) := by
  rw [residualBits, resBytes_eq, List.flatMap_map]

/-- Payloads of one length that hold the same bytes are the same bits. -/
theorem payloadBits_congr {r : State} (hlen : r.payLen = t.payLen)
    (h : ∀ a, a < t.payLen.toNat → r.pay.read a = t.pay.read a) :
    payloadBits r = payloadBits t := by
  rw [payloadBits, payloadBits, hlen, Memory.readBytes_congr fun a _ ha => h a (by omega)]

end

/-! ## The obligation on `DEC` after `PACK` -/

/-- Settles O46: the payload of a completed `PACK` is the codes of the residuals (`packChannel_ok`), which the trie of the table
decodes one by one (`walkSymbols_flatMap`), and `DEC` stores what the walk decodes. -/
theorem decInvertsPack : Obligations.DecInvertsPack := by
  intro s t r hk htbl hpack hdone hcfg hresN htrie hpayLen hpay
  obtain ⟨hres, u, hu, rfl⟩ := exec_pack_done hpack hdone
  obtain ⟨hused, hcap, p, hbits⟩ := packChannel_ok hu
  have hwalk : walkSymbols r.trie r.resN.toNat 0 (payloadBits r) = .ok (s.resBytes, List.replicate p false) := by
    have hn : s.resBytes.length = s.resN.toNat := s.res.readBytes_length 0 _
    have hcodes := walkSymbols_flatMap hk hused 0 (List.replicate p false)
    rw [← htbl, ← residualBits_eq_flatMap, ← hbits, hn] at hcodes
    rw [htrie, hresN, payloadBits_congr hpayLen hpay]
    exact hcodes
  have hresR : overCap r.cfg.resCap r.resN.toNat = false := by rw [hcfg, hresN]; exact hres
  have hpayR : overCap r.cfg.payCap r.payLen.toNat = false := by rw [hcfg, hpayLen]; exact hcap
  obtain ⟨v, hv, hvdone, -, -, hread, -⟩ := (decDecodesTheChannel r hresR hpayR).1 _ _ hwalk
  refine ⟨v, hv, hvdone, fun i hi => ?_⟩
  rw [hresN, State.resBytes, Memory.readBytes, Memory.readBytes, List.map_inj_left] at hread
  simpa using hread i (List.mem_range.2 hi)

end Sys2Proof.Machine
end

section
/-! SUPPORT. Writing a container (rules R71, R193 to R196): the bytes written at the cursor, and a sequence of fields, which are
all written or stop at the first one that does not fit. -/

namespace Sys2Proof.Machine

/-! ## Byte sequences in a memory -/

theorem Memory.writeBytes_append (m : Memory) (a : Nat) (xs ys : List Byte) :
    m.writeBytes a (xs ++ ys) = (m.writeBytes a xs).writeBytes (a + xs.length) ys := by
  induction xs generalizing m a with
  | nil => rfl
  | cons x xs ih =>
    rw [List.cons_append, Memory.writeBytes, Memory.writeBytes, ih, List.length_cons, Nat.add_assoc, Nat.add_comm 1]

theorem Memory.readBytes_append (m : Memory) (a n k : Nat) :
    m.readBytes a (n + k) = m.readBytes a n ++ m.readBytes (a + n) k := by
  simp [Memory.readBytes, List.range_add, Nat.add_assoc]

/-- A memory that holds `xs ++ ys` at an address holds `xs` there and `ys` behind it. -/
theorem Memory.readBytes_eq_append_iff (m : Memory) (a : Nat) (xs ys : List Byte) :
    m.readBytes a (xs ++ ys).length = xs ++ ys ↔
      m.readBytes a xs.length = xs ∧ m.readBytes (a + xs.length) ys.length = ys := by
  rw [List.length_append, Memory.readBytes_append]
  exact List.append_eq_append_iff_of_size_eq_left (m.readBytes_length _ _)

/-! ## Fields written at the cursor -/

/-- The state with the container cursor at an offset. -/
def setCpos (k : Nat) (s : State) : State := { s with cpos := BitVec.ofNat 64 k }

@[simp] theorem setCpos_cfg (k : Nat) (s : State) : (setCpos k s).cfg = s.cfg := rfl

@[simp] theorem setCpos_curch (k : Nat) (s : State) : (setCpos k s).curch = s.curch := rfl

/-- The state with bytes written at the cursor and the cursor behind them (rule R71). -/
def appendBytes (bs : List Byte) (s : State) : State :=
  { s with cont := s.cont.writeBytes s.cpos.toNat bs, cpos := BitVec.ofNat 64 (s.cpos.toNat + bs.length) }

theorem appendBytes_nil (s : State) : appendBytes [] s = s := by
  simp [appendBytes, Memory.writeBytes]

theorem appendBytes_cpos {bs : List Byte} {s : State} (h : s.cpos.toNat + bs.length < 2 ^ 64) :
    (appendBytes bs s).cpos.toNat = s.cpos.toNat + bs.length := Nat.mod_eq_of_lt h

theorem appendBytes_appendBytes {xs : List Byte} {s : State} (h : s.cpos.toNat + xs.length < 2 ^ 64) (ys : List Byte) :
    appendBytes ys (appendBytes xs s) = appendBytes (xs ++ ys) s := by
  have hstep : appendBytes ys (appendBytes xs s) =
      { s with
        cont := (s.cont.writeBytes s.cpos.toNat xs).writeBytes (appendBytes xs s).cpos.toNat ys
        cpos := BitVec.ofNat 64 ((appendBytes xs s).cpos.toNat + ys.length) } := rfl
  rw [hstep, appendBytes_cpos h, ← Memory.writeBytes_append, Nat.add_assoc, ← List.length_append, appendBytes]

/-- Fields written one after the other. -/
def writeFields : List (List Byte) → State → Except Raise State
  | [], s => .ok s
  | f :: fs, s => contWrite f s >>= writeFields fs

/-- A field behind which a stage goes on with fields made from a part of the state that writing does not change. -/
theorem contWrite_bind_congr {f : List Byte} {g g' : State → Except Raise State} {s : State}
    (h : ∀ bs, g (appendBytes bs s) = g' (appendBytes bs s)) : (contWrite f s >>= g) = (contWrite f s >>= g') := by
  cases hw : contWrite f s with
  | error e => rfl
  | ok t =>
    obtain ⟨-, -, rfl⟩ := contWrite_inv hw
    exact h f

theorem writeFields_singleton (f : List Byte) (s : State) : writeFields [f] s = contWrite f s := by
  rw [writeFields]
  cases contWrite f s <;> rfl

/-- What writing fields of which one may not fit answers: the state behind them all, or `CapacityError` (`CONT`) at the first
one that does not fit. -/
def fieldsOutcome (bs : List Byte) (lengths : List Nat) (s : State) : Except Raise State :=
  match fieldFault s.cfg.contCap s.cpos.toNat lengths with
  | none => .ok (appendBytes bs s)
  | some pos => .error ⟨.capCont, pos, s.curch⟩

theorem fieldsOutcome_ok {bs : List Byte} {lengths : List Nat} {s : State}
    (h : fieldFault s.cfg.contCap s.cpos.toNat lengths = none) : fieldsOutcome bs lengths s = .ok (appendBytes bs s) := by
  rw [fieldsOutcome, h]

theorem fieldsOutcome_error {bs : List Byte} {lengths : List Nat} {s : State} {pos : Nat}
    (h : fieldFault s.cfg.contCap s.cpos.toNat lengths = some pos) :
    fieldsOutcome bs lengths s = .error ⟨.capCont, pos, s.curch⟩ := by
  rw [fieldsOutcome, h]

/-- Fields whose ends, where the capacity allows them, have a cursor of 64 bits (rule R71). -/
theorem writeFields_eq {fs : List (List Byte)} {s : State}
    (hwidth : ∀ n, n ≤ s.cpos.toNat + fs.flatten.length → overCap s.cfg.contCap n = false → n < 2 ^ 64) :
    writeFields fs s = fieldsOutcome fs.flatten (fs.map List.length) s := by
  induction fs generalizing s with
  | nil => exact congrArg Except.ok (appendBytes_nil s).symm
  | cons f fs ih =>
    rw [List.flatten_cons, List.length_append] at hwidth
    rw [writeFields, List.map_cons, List.flatten_cons]
    cases hcap : overCap s.cfg.contCap (s.cpos.toNat + f.length) with
    | true =>
      rw [contWrite_full hcap, fieldsOutcome_error (by rw [fieldFault_cons, if_pos hcap])]
      rfl
    | false =>
      have hlt := hwidth _ (by omega) hcap
      have hpos := appendBytes_cpos hlt
      rw [contWrite_ok hcap hlt, ok_bind]
      refine (ih (s := appendBytes f s) fun n hn => hwidth n (by omega)).trans ?_
      rw [fieldsOutcome, fieldsOutcome, hpos, fieldFault_cons, hcap, if_neg Bool.false_ne_true, appendBytes_appendBytes hlt]
      rfl

/-! ## The header -/

/-- `WriteHeader()` is the writing of its five fields (rule R193). -/
theorem writeHeader_eq_writeFields (s : State) :
    writeHeader s = writeFields
      [[s.cfg.magic0, s.cfg.magic1, s.cfg.magic2], le32 s.desc.width, le32 s.desc.height, le16 s.desc.maxval,
        [s.desc.channels]] (setCpos 0 s) := by
  rw [writeHeader]
  refine contWrite_bind_congr fun _ => contWrite_bind_congr fun _ => contWrite_bind_congr fun _ =>
    contWrite_bind_congr fun _ => ?_
  rw [writeFields_singleton]
  rfl

@[simp] theorem le32_length (v : BitVec 32) : (le32 v).length = 4 := rfl

@[simp] theorem le16_length (v : BitVec 16) : (le16 v).length = 2 := rfl

@[simp] theorem imageHeader_length (s : State) : (imageHeader s).length = 14 := rfl

/-- The lengths of the header's fields (rule R101). -/
def headerFields : List Nat := [3, 4, 4, 2, 1]

/-- `WriteHeader()`: the image's header at the start of the container, or the first field that does not fit (rule R193). -/
theorem writeHeader_eq (s : State) :
    writeHeader s = fieldsOutcome (imageHeader s) headerFields (setCpos 0 s) := by
  have hpos : (setCpos 0 s).cpos.toNat = 0 := rfl
  rw [writeHeader_eq_writeFields, writeFields_eq]
  · simp [headerFields, imageHeader]
  · simp [hpos]; omega

theorem headerWritten_cpos (s : State) : (appendBytes (imageHeader s) (setCpos 0 s)).cpos = 14 := by
  rw [appendBytes, imageHeader_length]
  rfl

theorem exec_hdrWr {s : State} (h : imageFault s = none) :
    exec .hdrWr s = .next (endCommand .cw s (writeHeader s >>= fun t => .ok (closeContainer t))) := by
  rw [exec, execHdrWr, hdrWrBody, validateImage_eq, h]
  rfl

/-- Settles O49: behind a valid descriptor the five fields are written, or the first one that does not fit raises
(`writeHeader_eq`). -/
theorem hdrWrWritesTheHeader : Obligations.HdrWrWritesTheHeader := by
  intro s
  refine ⟨fun himg hcap => ?_, fun k p himg => ?_, fun cap himg hcfg hcap => ?_⟩
  · have hpos := headerWritten_cpos s
    have hfault : fieldFault s.cfg.contCap 0 headerFields = none := fieldFault_none hcap
    refine ⟨complete (closeContainer (appendBytes (imageHeader s) (setCpos 0 s))), ?_, rfl, rfl, hpos, hpos, ?_,
      fun a ha => ?_, ?_⟩
    · rw [exec_hdrWr himg, writeHeader_eq, fieldsOutcome_ok (s := setCpos 0 s) hfault, ok_bind, endCommand_ok]
    · exact s.cont.readBytes_writeBytes 0 (imageHeader s)
    · exact s.cont.read_writeBytes_outside _ (.inr ha)
    · rw [appendBytes]; rfl
  · rw [exec, execHdrWr, hdrWrBody, validateImage_eq, himg]
    rfl
  · have hfault : fieldFault (some cap) 0 headerFields =
        some (if cap < 3 then 0 else if cap < 7 then 3 else if cap < 11 then 7 else if cap < 13 then 11 else 13) := by
      simp only [headerFields, fieldFault_cons, overCap_some, decide_eq_true_eq, hcap, if_true]
      split_ifs <;> rfl
    rw [← hcfg] at hfault
    rw [exec_hdrWr himg, writeHeader_eq, fieldsOutcome_error (s := setCpos 0 s) hfault]
    rfl

/-! ## The channel record -/

/-- The record that the banks hold (rule R195). -/
def bankRecord (s : State) : List Byte :=
  s.tbl.len.toList ++ le32 (s.payLen.setWidth 32) ++ s.pay.readBytes 0 s.payLen.toNat

@[simp] theorem bankRecord_length (s : State) : (bankRecord s).length = 260 + s.payLen.toNat := by
  simp [bankRecord]
  omega

/-- `WriteChannel()` is the writing of its three fields (rule R195). -/
theorem writeChannel_eq_writeFields {s : State} (h : s.payLen.toNat < 2 ^ 32) :
    writeChannel s = writeFields
      [s.tbl.len.toList, le32 (s.payLen.setWidth 32), s.pay.readBytes 0 s.payLen.toNat] s := by
  rw [writeChannel, if_neg (by omega)]
  refine contWrite_bind_congr fun _ => contWrite_bind_congr fun _ => ?_
  rw [writeFields_singleton]
  rfl

/-- `WriteChannel()` with a payload below `2^32` bytes: the record at the cursor, or the first field that does not fit
(rule R195). -/
theorem writeChannel_eq {s : State} (h : s.payLen.toNat < 2 ^ 32)
    (hwidth : ∀ n, n ≤ s.cpos.toNat + (260 + s.payLen.toNat) → overCap s.cfg.contCap n = false → n < 2 ^ 64) :
    writeChannel s = fieldsOutcome (bankRecord s) [256, 4, s.payLen.toNat] s := by
  rw [writeChannel_eq_writeFields h, writeFields_eq]
  · simp [bankRecord]
  · simpa [← Nat.add_assoc] using hwidth

theorem writeChannel_tooLarge {s : State} (h : 2 ^ 32 ≤ s.payLen.toNat) :
    writeChannel s = .error ⟨.payloadTooLarge, s.payLen.toNat, s.curch⟩ := by
  rw [writeChannel, if_pos (by omega), State.failure]

theorem exec_chnWr {s : State} (h : overCap s.cfg.payCap s.payLen.toNat = false) :
    exec .chnWr s = .next (endCommand .cw s (writeChannel s >>= fun t => .ok (closeContainer t))) := by
  rw [exec, execChnWr, chnWrBody, checkPay_within h]
  rfl

/-- Settles O50: the three fields are written, or the first one that does not fit raises (`writeChannel_eq`); a payload that
its count cannot express is refused first. -/
theorem chnWrAppendsTheRecord : Obligations.ChnWrAppendsTheRecord := by
  intro s hpay
  rw [exec_chnWr hpay]
  refine ⟨fun hlen hcap hwidth => ?_, fun cap hlen hcfg hwidth hcap => ?_, fun hlen => ?_⟩
  · have hfits : s.cpos.toNat + (bankRecord s).length < 2 ^ 64 := by rwa [bankRecord_length]
    have hfault : fieldFault s.cfg.contCap s.cpos.toNat [256, 4, s.payLen.toNat] = none :=
      fieldFault_none (by simpa [← Nat.add_assoc] using hcap)
    have hread := s.cont.readBytes_writeBytes s.cpos.toNat (bankRecord s)
    refine ⟨complete (closeContainer (appendBytes (bankRecord s) s)), ?_, rfl, rfl, ?_, rfl, ?_, fun a ha => ?_, rfl⟩
    · rw [writeChannel_eq hlen fun n hn _ => by omega, fieldsOutcome_ok hfault, ok_bind, endCommand_ok]
    · exact (appendBytes_cpos hfits).trans (by rw [bankRecord_length])
    · rw [bankRecord_length] at hread
      exact hread
    · exact s.cont.read_writeBytes_outside _ (by rwa [bankRecord_length])
  · have hfault : fieldFault s.cfg.contCap s.cpos.toNat [256, 4, s.payLen.toNat] =
        some (if cap < s.cpos.toNat + 256 then s.cpos.toNat
          else if cap < s.cpos.toNat + 260 then s.cpos.toNat + 256 else s.cpos.toNat + 260) := by
      simp only [hcfg, fieldFault_cons, overCap_some, decide_eq_true_eq, Nat.add_assoc, Nat.reduceAdd]
      rw [if_pos hcap]
      split_ifs <;> rfl
    rw [writeChannel_eq hlen fun n _ hn => ?_, fieldsOutcome_error hfault]
    · rfl
    · simp only [hcfg, overCap_some, decide_eq_false_iff_not] at hn
      omega
  · rw [writeChannel_tooLarge hlen]
    rfl

end Sys2Proof.Machine
end

section
/-! SUPPORT. Reading a container (rules R70, R197 to R200): the fields at their offsets, the checks of the header and of a record
in their order, and what a record that passes them leaves in the banks. -/

namespace Sys2Proof.Machine

/-! ## Checks in their order -/

/-- What a stage answers whose checks are given by the first one that fails. -/
def orRaise {α : Type} (ch : BitVec 2) (a : α) : Option (Cause × Nat) → Except Raise α
  | none => .ok a
  | some (c, p) => .error ⟨c, p, ch⟩

@[simp] theorem orRaise_none {α : Type} (ch : BitVec 2) (a : α) : orRaise ch a none = .ok a := rfl

theorem orRaise_ite {α : Type} (ch : BitVec 2) (a : α) (p : Prop) [Decidable p] (f : Cause × Nat)
    (o : Option (Cause × Nat)) :
    orRaise ch a (if p then some f else o) = if p then .error ⟨f.1, f.2, ch⟩ else orRaise ch a o := by
  split <;> rfl

/-- A stage that begins with a check that raises `e`. -/
theorem checked_bind {α β : Type} (p : Prop) [Decidable p] (e : Raise) (r : Except Raise α) (f : α → Except Raise β) :
    ((if p then .error e else r) >>= f) = if p then .error e else r >>= f := by
  split <;> rfl

/-! ## Fields read at the cursor -/

theorem setCpos_self (s : State) : setCpos s.cpos.toNat s = s := by
  simp [setCpos]

/-- A field at a known offset, as the first part of a stage. -/
theorem contRead_setCpos_bind {α : Type} {k n m : Nat} (hk : k < 2 ^ 64) (hm : k + n = m) (s : State) (c : Cause)
    (f : List Byte × State → Except Raise α) :
    (contRead n c (setCpos k s) >>= f) =
      if s.contLen.toNat < m then .error ⟨c, k, s.curch⟩ else f (s.cont.readBytes k n, setCpos m s) := by
  have hpos : (setCpos k s).cpos.toNat = k := Nat.mod_eq_of_lt hk
  have hnext : { setCpos k s with cpos := (setCpos k s).cpos + BitVec.ofNat 64 n } = setCpos m s := by
    rw [setCpos, setCpos, ← hm, BitVec.ofNat_add]
  rw [contRead_eq, hnext, hpos, hm, checked_bind]
  rfl

/-! ## The header -/

theorem uLE_header (s : State) :
    uLE (s.cont.readBytes 3 4) = headerWidth s ∧ uLE (s.cont.readBytes 7 4) = headerHeight s ∧
      uLE (s.cont.readBytes 11 2) = headerMaxval s ∧ uLE (s.cont.readBytes 13 1) = headerChannels s := by
  simp only [Memory.readBytes, List.range_succ, List.range_zero, List.nil_append, List.map_cons, List.map_nil,
    List.cons_append, uLE_cons, uLE_nil, headerWidth, headerHeight, headerMaxval, headerChannels, Nat.reduceAdd]
  refine ⟨?_, ?_, ?_, ?_⟩ <;> omega

/-- The header as `ReadHeader()` reads it. -/
def headerOf (s : State) : Header :=
  { w := headerWidth s, h := headerHeight s, mv := headerMaxval s, cc := headerChannels s }

theorem magic_ne_iff (s : State) :
    s.cont.readBytes 0 3 ≠ [s.cfg.magic0, s.cfg.magic1, s.cfg.magic2] ↔
      s.cont.read 0 ≠ s.cfg.magic0 ∨ s.cont.read 1 ≠ s.cfg.magic1 ∨ s.cont.read 2 ≠ s.cfg.magic2 := by
  simp [Memory.readBytes, List.range_succ, -not_and, not_and_or]

/-- The reading half of `ReadHeader()`: the field that is cut, or the magic, or the fields (rule R197). -/
theorem readHeaderFields_eq (s : State) :
    readHeaderFields s = orRaise s.curch (headerOf s, setCpos 14 s)
      (if s.contLen.toNat < 3 then some (.hdrMagic, 0)
      else if s.cont.read 0 ≠ s.cfg.magic0 ∨ s.cont.read 1 ≠ s.cfg.magic1 ∨ s.cont.read 2 ≠ s.cfg.magic2 then
        some (.badMagic, 0)
      else if s.contLen.toNat < 7 then some (.hdrWidth, 3)
      else if s.contLen.toNat < 11 then some (.hdrHeight, 7)
      else if s.contLen.toNat < 13 then some (.hdrMaxval, 11)
      else if s.contLen.toNat < 14 then some (.hdrChannels, 13)
      else none) := by
  obtain ⟨hw, hh, hm, hc⟩ := uLE_header s
  have hstart : { s with cpos := 0 } = setCpos 0 s := rfl
  have hfield {k n m : Nat} (h : k < 2 ^ 64 ∧ k + n = m) := @contRead_setCpos_bind (Header × State) k n m h.1 h.2
  simp only [orRaise_ite, ← magic_ne_iff, readHeaderFields, hstart, State.failure, orRaise_none, headerOf,
    hfield (show 0 < 2 ^ 64 ∧ 0 + 3 = 3 by decide), hfield (show 3 < 2 ^ 64 ∧ 3 + 4 = 7 by decide),
    hfield (show 7 < 2 ^ 64 ∧ 7 + 4 = 11 by decide), hfield (show 11 < 2 ^ 64 ∧ 11 + 2 = 13 by decide),
    hfield (show 13 < 2 ^ 64 ∧ 13 + 1 = 14 by decide), setCpos_cfg, setCpos_curch, hw, hh, hm, hc]
  rfl

/-- The state that a valid header leaves. -/
def withHeader (s : State) : State := { s with desc := headerDesc s, cpos := 14 }

/-- The validating half of `ReadHeader()`, on the fields of the container (rule R197). -/
theorem acceptHeader_headerOf (s : State) :
    acceptHeader (headerOf s) (setCpos 14 s) = orRaise s.curch (withHeader s)
      (if headerWidth s = 0 then some (.zeroWidth, 3)
      else if headerHeight s = 0 then some (.zeroHeight, 7)
      else if headerChannels s ≠ 1 ∧ headerChannels s ≠ 3 then some (.badChannels, 13)
      else if overCap s.cfg.imgCap (headerWidth s * headerHeight s * headerChannels s) then
        some (.capImg, headerWidth s * headerHeight s * headerChannels s)
      else none) := by
  have hcc : BitVec.ofNat 8 (headerChannels s) = s.cont.read 13 := by rw [headerChannels, BitVec.ofNat_toNat]; simp
  simp only [orRaise_ite, orRaise_none, acceptHeader, headerOf, State.failure, setCpos_cfg, setCpos_curch, hcc]
  rfl

/-- `ReadHeader()` behind the check on `CONT`: the descriptor of a valid header, or the first check that fails (rule R197). -/
theorem readHeader_eq {s : State} (h : overCap s.cfg.contCap s.contLen.toNat = false) :
    readHeader s = orRaise s.curch (withHeader s) (headerFault s) := by
  rw [readHeader, readHeaderFields_eq, headerFault]
  simp only [h, Bool.false_eq_true, if_false, orRaise_ite]
  simp only [checked_bind, orRaise_none, ok_bind, acceptHeader_headerOf, orRaise_ite]

/-- `HDR.RD`: the first check that fails, or the state of a valid header (rule R198). -/
theorem hdrRdBody_eq (s : State) : hdrRdBody s = orRaise s.curch (withHeader s) (headerFault s) := by
  rw [hdrRdBody]
  cases h : overCap s.cfg.contCap s.contLen.toNat with
  | true =>
    rw [checkCont_over h, headerFault, h, if_pos rfl]
    rfl
  | false =>
    rw [checkCont_eq, h, if_neg Bool.false_ne_true, ok_bind, readHeader_eq h]

/-- Settles O51: `hdrRdBody_eq`. -/
theorem hdrRdReadsTheHeader : Obligations.HdrRdReadsTheHeader := by
  intro s
  refine ⟨fun h => ?_, fun c p h => ?_⟩
  · rw [exec, execHdrRd, hdrRdBody_eq, h]
    rfl
  · rw [exec, execHdrRd, hdrRdBody_eq, h]
    rfl

/-! ## The channel record -/

/-- The payload count of the record at an offset (rule R102). -/
def payloadCount (m : Memory) (off : Nat) : Nat := uLE (m.readBytes (off + 256) 4)

theorem uLE_lt (bs : List Byte) : uLE bs < 256 ^ bs.length := by
  induction bs with
  | nil => decide
  | cons b bs ih =>
    have := b.isLt
    rw [uLE_cons, List.length_cons, pow_succ]
    omega

theorem payloadCount_lt (m : Memory) (off : Nat) : payloadCount m off < 2 ^ 32 := by
  have h := uLE_lt (m.readBytes (off + 256) 4)
  rwa [Memory.readBytes_length, show 256 ^ 4 = 2 ^ 32 by norm_num] at h

/-- The first check of `ReadChannel()` that fails, for a record at an offset (rule R199). -/
def readFault (s : State) (off : Nat) : Option (Cause × Nat) :=
  if s.contLen.toNat < off + 256 then some (.lengths, off)
  else if s.contLen.toNat < off + 260 then some (.payloadCount, off + 256)
  else if s.contLen.toNat < off + 260 + payloadCount s.cont off then some (.payload, off + 260)
  else if overCap s.cfg.payCap (payloadCount s.cont off) then some (.capPay, payloadCount s.cont off)
  else none

theorem readFault_eq_none_iff {s : State} {off : Nat} :
    readFault s off = none ↔ off + 260 + payloadCount s.cont off ≤ s.contLen.toNat ∧
      overCap s.cfg.payCap (payloadCount s.cont off) = false := by
  rw [readFault]
  split_ifs <;> simp_all <;> omega

/-- The banks after the record at the cursor was read (rule R199). -/
def loadRecord (s : State) : State :=
  { s with
    len := lengthBank (s.cont.readBytes s.cpos.toNat 256)
    pay := s.pay.writeBytes 0 (s.cont.readBytes (s.cpos.toNat + 260) (payloadCount s.cont s.cpos.toNat))
    payLen := BitVec.ofNat 64 (payloadCount s.cont s.cpos.toNat)
    cpos := BitVec.ofNat 64 (s.cpos.toNat + 260 + payloadCount s.cont s.cpos.toNat) }

theorem loadRecord_payLen (s : State) : (loadRecord s).payLen.toNat = payloadCount s.cont s.cpos.toNat :=
  Nat.mod_eq_of_lt ((payloadCount_lt _ _).trans (by norm_num))

theorem loadRecord_payBytes (s : State) :
    (loadRecord s).pay.readBytes 0 (loadRecord s).payLen.toNat =
      s.cont.readBytes (s.cpos.toNat + 260) (payloadCount s.cont s.cpos.toNat) := by
  have h := s.pay.readBytes_writeBytes 0 (s.cont.readBytes (s.cpos.toNat + 260) (payloadCount s.cont s.cpos.toNat))
  rw [Memory.readBytes_length] at h
  rw [loadRecord_payLen]
  exact h

/-- The state with a length table in `LEN`. -/
def setLen (l : Vector (BitVec 8) 256) (s : State) : State := { s with len := l }

theorem readChannel_eq_binds (s : State) :
    readChannel s = contRead 256 .lengths s >>= fun p =>
      contRead 4 .payloadCount (setLen (lengthBank p.1) p.2) >>= fun q =>
        contRead (uLE q.1) .payload q.2 >>= fun r => storePayload r.1 r.2 := rfl

@[simp] theorem setLen_cfg (l : Vector (BitVec 8) 256) (s : State) : (setLen l s).cfg = s.cfg := rfl

@[simp] theorem setLen_contLen (l : Vector (BitVec 8) 256) (s : State) : (setLen l s).contLen = s.contLen := rfl

@[simp] theorem setLen_cont (l : Vector (BitVec 8) 256) (s : State) : (setLen l s).cont = s.cont := rfl

@[simp] theorem setLen_curch (l : Vector (BitVec 8) 256) (s : State) : (setLen l s).curch = s.curch := rfl

theorem setLen_setCpos (l : Vector (BitVec 8) 256) (k : Nat) (s : State) :
    setLen l (setCpos k s) = setCpos k (setLen l s) := rfl

/-- `ReadChannel()`: the record at the cursor, or the first check that fails (rule R199). -/
theorem readChannel_eq (s : State) : readChannel s = orRaise s.curch (loadRecord s) (readFault s s.cpos.toNat) := by
  have hlen := s.contLen.isLt
  conv_lhs => rw [readChannel_eq_binds, ← setCpos_self s]
  rw [contRead_setCpos_bind s.cpos.isLt rfl, readFault, orRaise_ite]
  by_cases h1 : s.contLen.toNat < s.cpos.toNat + 256
  · rw [if_pos h1, if_pos h1]
  rw [if_neg h1, if_neg h1, orRaise_ite, setLen_setCpos,
    contRead_setCpos_bind (m := s.cpos.toNat + 260) (by omega) (by omega), setLen_contLen]
  by_cases h2 : s.contLen.toNat < s.cpos.toNat + 260
  · rw [if_pos h2, if_pos h2, setLen_curch]
  rw [if_neg h2, if_neg h2, contRead_setCpos_bind (by omega) rfl, storePayload, Memory.readBytes_length, orRaise_ite,
    orRaise_ite]
  simp only [setLen_contLen, setLen_cont, setLen_cfg, setLen_curch, setCpos_cfg, setCpos_curch, State.failure,
    ← payloadCount.eq_1]
  by_cases h3 : s.contLen.toNat < s.cpos.toNat + 260 + payloadCount s.cont s.cpos.toNat
  · rw [if_pos h3, if_pos h3]
  rw [if_neg h3, if_neg h3]
  by_cases h4 : overCap s.cfg.payCap (payloadCount s.cont s.cpos.toNat) = true
  · rw [if_pos h4, if_pos h4]
  · rw [if_neg h4, if_neg h4, orRaise_none, loadRecord]
    simp only [setLen, setCpos]

theorem exec_chnRd {s : State} (h : overCap s.cfg.contCap s.contLen.toNat = false) :
    exec .chnRd s = .next (endCommand .e s (orRaise s.curch (loadRecord s) (readFault s s.cpos.toNat))) := by
  rw [exec, execChnRd, chnRdBody, checkCont_eq, h, if_neg Bool.false_ne_true, ok_bind, readChannel_eq]

theorem lengthBank_getElem (bs : List Byte) (v : Fin 256) : (lengthBank bs)[v] = bs.getD v.val 0 := by
  simp [lengthBank]

/-- Settles O52: the checks are those of `readFault`, and the banks those of `loadRecord`. -/
theorem chnRdReadsTheRecord : Obligations.ChnRdReadsTheRecord := by
  intro s hcont
  rw [exec_chnRd hcont]
  simp only [← payloadCount.eq_1]
  refine ⟨fun h1 => ?_, fun h1 h2 => ?_, fun h2 h3 => ?_, fun h3 h4 => ?_, fun h3 h4 => ?_⟩
  · rw [readFault, if_pos h1]
    rfl
  · rw [readFault, if_neg (by omega), if_pos h2]
    rfl
  · rw [readFault, if_neg (by omega), if_neg (by omega), if_pos h3]
    rfl
  · rw [readFault, if_neg (by omega), if_neg (by omega), if_neg (by omega), if_pos h4]
    rfl
  · have hfits := s.contLen.isLt
    rw [readFault_eq_none_iff.2 ⟨h3, h4⟩]
    refine ⟨complete (loadRecord s), rfl, rfl, rfl, fun v => ?_, loadRecord_payLen s, fun i hi => ?_, fun a ha => ?_, ?_, rfl⟩
    · exact (lengthBank_getElem _ v).trans (Memory.readBytes_getD v.isLt _ _)
    · refine (Memory.read_writeBytes _ _ _ _).trans ?_
      rw [Memory.readBytes_length, if_pos ⟨Nat.zero_le i, by omega⟩]
      exact Memory.readBytes_getD hi _ _
    · exact Memory.read_writeBytes_outside _ _ (.inr (by rw [Memory.readBytes_length]; omega))
    · exact Nat.mod_eq_of_lt (by omega)

end Sys2Proof.Machine
end

section
/-! SUPPORT. `COMPRESS` (rules R202, R203): every channel ends in its record behind the container so far, or in the first check
that fails. -/

namespace Sys2Proof.Machine

open Claims (Bank SameOwn writtenBanks withEphemeralOf)

/-! ## The first check that fails -/

/-- A stage that answers a state with `P`, or raises the first check that fails. -/
def Answers (P : State → Prop) (o : Option Raise) (r : Except Raise State) : Prop :=
  match o with
  | none => ∃ t, r = .ok t ∧ P t
  | some e => r = .error e

namespace Answers
variable {P Q : State → Prop} {o : Option Raise} {r : Except Raise State} {f : State → Except Raise State}

theorem ok {t : State} (hr : r = .ok t) (h : P t) : Answers P none r := ⟨t, hr, h⟩

/-- Behind a stage that does not raise, the answer is that of the next stage. -/
theorem bind (h : Answers P none r) (hf : ∀ t, P t → Answers Q o (f t)) : Answers Q o (r >>= f) := by
  obtain ⟨t, rfl, ht⟩ := h
  exact hf t ht

/-- A stage that raises ends the command. -/
theorem bind_error {e : Raise} (h : Answers P (some e) r) : Answers Q (some e) (r >>= f) := by
  have h : r = .error e := h
  rw [h]
  rfl

/-- A stage that cannot raise, behind one that may. -/
theorem bind_next (h : Answers P o r) (hf : ∀ t, P t → Answers Q none (f t)) : Answers Q o (r >>= f) := by
  cases o with
  | some e => exact h.bind_error
  | none => exact h.bind hf

end Answers

/-! ## The codes of a channel -/

/-- Every byte of a sequence has a code in the table of the sequence (rules R131, R143). -/
theorem huffmanLengths_histogramOf_ne_zero {r : List Byte} (hr : r.length < 2 ^ 64) {v : Byte} (hv : v ∈ r) :
    (huffmanLengths (histogramOf r))[v.toNat] ≠ 0 := by
  have hcount : (histogramOf r)[v.toNat].toNat = r.count (BitVec.ofNat 8 v.toNat) :=
    histogramOf_getElem_toNat hr ⟨v.toNat, v.isLt⟩
  rw [BitVec.ofNat_toNat, BitVec.setWidth_eq] at hcount
  have hpos : 0 < r.count v := List.count_pos_iff.2 hv
  have hused : (histogramOf r)[v.toNat] ≠ 0 := fun h0 => by
    rw [h0] at hcount
    exact hpos.ne hcount
  obtain ⟨hmin, -⟩ := lengthPairs_bounds (huffmanLengths_mem (v := ⟨v.toNat, v.isLt⟩) hused)
  intro h0
  have h0 : (huffmanLengths (histogramOf r))[(⟨v.toNat, v.isLt⟩ : Fin 256)] = 0 := h0
  rw [h0] at hmin
  exact absurd hmin (by decide)

theorem channelLengths_ne_zero {d : Dims} (hn : d.n < 2 ^ 64) {c : Nat} {m : Memory} {v : Byte}
    (hv : v ∈ channelResiduals d c m) : (channelLengths d c m)[v.toNat] ≠ 0 :=
  huffmanLengths_histogramOf_ne_zero (by rwa [channelResiduals_length]) hv

theorem channelLengths_kraftValid (d : Dims) (c : Nat) (m : Memory) : KraftValid (channelLengths d c m) :=
  huffmanLengths_kraftValid _

@[simp] theorem channelRecord_length (d : Dims) (c : Nat) (m : Memory) :
    (channelRecord d c m).length = 260 + (channelPayload d c m).length := by
  simp [channelRecord]
  omega

/-! ## Packing a channel -/

/-- The banks hold the residuals of channel `c` of an image and their table (rules R123, R131, R140, R155). -/
structure Coded (d : Dims) (c : Nat) (m : Memory) (t : State) : Prop where
  res : t.resBytes = channelResiduals d c m
  tbl : t.tbl = canonicalTable (channelLengths d c m)

/-- The residuals of channel `c`, their counts and code lengths in their banks (rules R123, R131, R140). -/
def measureChannel (d : Dims) (c : Nat) (s : State) : State := buildLengths (histogram (filterForward d c s))

theorem filterForward_resN {d : Dims} (hn : d.n < 2 ^ 64) (c : Nat) (s : State) :
    (filterForward d c s).resN.toNat = d.n := Nat.mod_eq_of_lt hn

theorem filterForward_resBytes {d : Dims} (hn : d.n < 2 ^ 64) (c : Nat) (s : State) :
    (filterForward d c s).resBytes = channelResiduals d c s.img := by
  have h := s.res.readBytes_writeBytes 0 (channelResiduals d c s.img)
  rw [channelResiduals_length] at h
  rw [State.resBytes, filterForward_resN hn]
  exact h

theorem measureChannel_len {d : Dims} (hn : d.n < 2 ^ 64) (c : Nat) (s : State) :
    (measureChannel d c s).len = channelLengths d c s.img := by
  rw [measureChannel, buildLengths_len, histogram_freq, filterForward_resBytes hn, channelLengths]

/-- The state in which the channel is packed. -/
def codeChannel (d : Dims) (c : Nat) (s : State) : State :=
  { measureChannel d c s with tbl := canonicalTable (measureChannel d c s).len }

theorem buildTable_measureChannel {d : Dims} (hn : d.n < 2 ^ 64) (c : Nat) (s : State) :
    buildTable (measureChannel d c s) = .ok (codeChannel d c s) := by
  have hk : KraftValid (measureChannel d c s).len := by
    rw [measureChannel_len hn]
    exact channelLengths_kraftValid d c s.img
  rw [buildTable, if_neg (Nat.not_lt.2 hk), codeChannel]

theorem codeChannel_coded {d : Dims} (hn : d.n < 2 ^ 64) (c : Nat) {s : State} {m : Memory} (himg : s.img = m) :
    Coded d c m (codeChannel d c s) where
  res := by
    have hres : (codeChannel d c s).resBytes = (filterForward d c s).resBytes := by
      simp only [State.resBytes, codeChannel, measureChannel, buildLengths_resN, buildLengths_res, histogram_resN,
        histogram_res]
    rw [hres, filterForward_resBytes hn, himg]
  tbl := by rw [← himg, ← measureChannel_len hn]; rfl

section
variable {d : Dims} (hn : d.n < 2 ^ 64) {c : Nat} {m : Memory} {t : State} (h : Coded d c m t)
include hn h

theorem Coded.used : ∀ i, i < t.resN.toNat → t.tbl.len[(t.res.read i).toNat] ≠ 0 := by
  intro i hi
  have hmem : t.res.read i ∈ channelResiduals d c m := by
    rw [← h.res, resBytes_eq]
    exact List.mem_map.2 ⟨i, List.mem_range.2 hi, rfl⟩
  have htbl : t.tbl.len = channelLengths d c m := by rw [h.tbl, canonicalTable_len]
  simpa only [htbl] using channelLengths_ne_zero hn hmem

omit hn in
theorem Coded.payload : bytesOfBits (residualBits t) = channelPayload d c m := by
  rw [residualBits_eq_flatMap, h.res, h.tbl, channelPayload]

/-- `PackChannel()` without room for the payload (rule R162). -/
theorem Coded.packChannel_full (hfull : payLimit t.cfg.payCap < (channelPayload d c m).length) :
    packChannel t = .error ⟨.capPay, payLimit t.cfg.payCap, t.curch⟩ := by
  rw [← h.payload, bytesOfBits_length] at hfull
  exact Machine.packChannel_full (h.used hn) hfull

/-- `PackChannel()` with room for the payload. -/
theorem Coded.packChannel_fits (hroom : (channelPayload d c m).length ≤ payLimit t.cfg.payCap) :
    ∃ u, packChannel t = .ok u ∧ u = { t with pay := u.pay, payLen := u.payLen, pkAcc := u.pkAcc, pkNb := u.pkNb } ∧
      u.payLen.toNat = (channelPayload d c m).length ∧ bankRecord u = channelRecord d c m := by
  rw [← h.payload, bytesOfBits_length] at hroom
  obtain ⟨u, p, hu, hp, hnb, happ⟩ := Machine.packChannel_fits (h.used hn) hroom
  have hbytes : channelPayload d c m = u.pay.readBytes 0 u.payLen.toNat := h.payload.symm.trans (happ.payload_eq hp hnb)
  have hlen : u.payLen.toNat = (channelPayload d c m).length := by rw [hbytes, Memory.readBytes_length]
  have htbl : u.tbl.len = channelLengths d c m := by rw [happ.tbl, packInit_tbl, h.tbl, canonicalTable_len]
  refine ⟨u, hu, happ.frame, hlen, ?_⟩
  rw [bankRecord, channelRecord, htbl, ← hbytes, ← BitVec.ofNat_toNat, hlen]

end

/-! ## The container so far -/

/-- `t` has the image of `s`, and the container holds `bs` up to the cursor. -/
structure Wrote (s : State) (bs : List Byte) (t : State) : Prop where
  cfg : t.cfg = s.cfg
  desc : t.desc = s.desc
  img : t.img = s.img
  cont : t.cont = s.cont.writeBytes 0 bs
  cpos : t.cpos.toNat = bs.length

theorem Wrote.appendBytes {s t : State} {bs more : List Byte} (h : Wrote s bs t) (hlt : bs.length + more.length < 2 ^ 64) :
    Wrote s (bs ++ more) (appendBytes more t) := by
  have hpos := h.cpos
  refine ⟨h.cfg, h.desc, h.img, ?_, ?_⟩
  · have hcont : (Machine.appendBytes more t).cont = t.cont.writeBytes t.cpos.toNat more := rfl
    rw [hcont, h.cont, hpos, Memory.writeBytes_append, Nat.zero_add]
  · rw [appendBytes_cpos (by rwa [hpos]), hpos, List.length_append]

/-- No record is longer (rules R102, R195). -/
def recordBound : Nat := 260 + 2 ^ 32

theorem recordBound_eq : recordBound = 4294967556 := rfl

/-! ## One channel -/

theorem channelFault_eq_none {s : State} {c off : Nat} (h : channelFault s c off = none) :
    overCap s.cfg.resCap s.desc.dims.n = false ∧
      (channelPayload s.desc.dims c s.img).length ≤ payLimit s.cfg.payCap ∧
      (channelPayload s.desc.dims c s.img).length < 2 ^ 32 ∧
      fieldFault s.cfg.contCap off [256, 4, (channelPayload s.desc.dims c s.img).length] = none := by
  simp only [channelFault] at h
  split_ifs at h with h1 h2 h3
  exact ⟨by simpa using h1, by omega, by omega, Option.map_eq_none_iff.1 h⟩

/-- The state in which the stages of a channel begin (rules R41, R202, R208). -/
def setChannel (c : Nat) (s : State) : State := { s with curch := BitVec.ofNat 2 c }

@[simp] theorem setChannel_curch (c : Nat) (s : State) : (setChannel c s).curch = BitVec.ofNat 2 c := rfl

theorem compressChannel_eq (d : Dims) (c : Nat) (s : State) :
    compressChannel d c s = checkResOut d (setChannel c s) >>= fun _ =>
      buildTable (measureChannel d c (setChannel c s)) >>= fun t => packChannel t >>= writeChannel := rfl

theorem codeChannel_cfg (d : Dims) (c : Nat) (s : State) : (codeChannel d c s).cfg = s.cfg := by
  rw [codeChannel, measureChannel]
  simp only [buildLengths_cfg, histogram_cfg]
  rfl

theorem codeChannel_curch (d : Dims) (c : Nat) (s : State) : (codeChannel d c s).curch = s.curch := by
  rw [codeChannel, measureChannel]
  simp only [buildLengths_curch, histogram_curch]
  rfl

theorem Wrote.codeChannel {s t : State} {bs : List Byte} (h : Wrote s bs t) (d : Dims) (c : Nat) :
    Wrote s bs (codeChannel d c t) := by
  refine ⟨(codeChannel_cfg d c t).trans h.cfg, ?_, ?_, ?_, ?_⟩
  · rw [Machine.codeChannel, measureChannel]; simp only [buildLengths_desc, histogram_desc]; exact h.desc
  · rw [Machine.codeChannel, measureChannel]; simp only [buildLengths_img, histogram_img]; exact h.img
  · rw [Machine.codeChannel, measureChannel]; simp only [buildLengths_cont, histogram_cont]; exact h.cont
  · rw [Machine.codeChannel, measureChannel]; simp only [buildLengths_cpos, histogram_cpos]; exact h.cpos

/-- A channel that is coded is packed and its record written, or the first check that fails raises (rules R195, R202). -/
theorem packAndWrite_answers {s t : State} {bs : List Byte} {c : Nat} {ch : BitVec 2} (h : Wrote s bs t) (hch : t.curch = ch)
    (hcoded : Coded s.desc.dims c s.img t) (hres : overCap s.cfg.resCap s.desc.dims.n = false)
    (hlt : bs.length + recordBound < 2 ^ 64) :
    Answers (Wrote s (bs ++ channelRecord s.desc.dims c s.img))
      ((channelFault s c bs.length).map fun f => ⟨f.1, f.2, ch⟩) (packChannel t >>= writeChannel) := by
  subst hch
  have hn := dims_n_lt s.desc
  have hbound := recordBound_eq
  simp only [channelFault, hres, Bool.false_eq_true, if_false]
  by_cases hfull : payLimit s.cfg.payCap < (channelPayload s.desc.dims c s.img).length
  · rw [if_pos hfull, ← h.cfg]
    exact Answers.bind_error (P := fun _ => True) (hcoded.packChannel_full hn (by rwa [h.cfg]))
  rw [if_neg hfull]
  obtain ⟨u, hu, hframe, hlen, hrecord⟩ := hcoded.packChannel_fits hn (by rw [h.cfg]; omega)
  have hch : u.curch = t.curch := (congrArg State.curch hframe :)
  rw [hu, ok_bind, ← hlen, ← hch]
  by_cases hlarge : 2 ^ 32 ≤ u.payLen.toNat
  · rw [if_pos hlarge]
    exact writeChannel_tooLarge hlarge
  have hw : Wrote s bs u := by rw [hframe]; exact ⟨h.cfg, h.desc, h.img, h.cont, h.cpos⟩
  rw [if_neg hlarge, writeChannel_eq (by omega) fun n hle _ => by rw [hw.cpos] at hle; omega, fieldsOutcome, hw.cfg, hw.cpos,
    hrecord]
  cases fieldFault s.cfg.contCap bs.length [256, 4, u.payLen.toNat] with
  | some pos => rfl
  | none => exact .ok rfl (hw.appendBytes (by rw [channelRecord_length, ← hlen]; omega))

/-- `CompressChannel(c)`: the record behind the container so far, or the first check that fails (rule R202). -/
theorem compressChannel_answers {s t : State} {bs : List Byte} (h : Wrote s bs t) (c : Nat)
    (hlt : bs.length + recordBound < 2 ^ 64) :
    Answers (Wrote s (bs ++ channelRecord s.desc.dims c s.img))
      ((channelFault s c bs.length).map fun f => ⟨f.1, f.2, BitVec.ofNat 2 c⟩) (compressChannel s.desc.dims c t) := by
  have hn := dims_n_lt s.desc
  have hch : Wrote s bs (setChannel c t) := ⟨h.cfg, h.desc, h.img, h.cont, h.cpos⟩
  rw [compressChannel_eq, checkResOut_eq, hch.cfg]
  cases hres : overCap s.cfg.resCap s.desc.dims.n with
  | true =>
    simp only [channelFault, hres, if_true]
    rfl
  | false =>
    rw [if_neg Bool.false_ne_true, ok_bind, buildTable_measureChannel hn, ok_bind]
    exact packAndWrite_answers (hch.codeChannel s.desc.dims c) (codeChannel_curch _ _ _) (codeChannel_coded hn c hch.img)
      hres hlt

/-! ## All channels -/

theorem channelsFault_cons (s : State) (c : Nat) (cs : List Nat) (off : Nat) :
    channelsFault s (c :: cs) off =
      ((channelFault s c off).map fun f => (⟨f.1, f.2, BitVec.ofNat 2 c⟩ : Raise)).or
        (channelsFault s cs (off + 260 + (channelPayload s.desc.dims c s.img).length)) := by
  rw [channelsFault]
  cases channelFault s c off <;> rfl

/-- The channel loop: the records of the listed channels, or the first check that fails (rule R203). -/
theorem forChannels_compress_answers {s t : State} {bs : List Byte} {cs : List Nat} (h : Wrote s bs t)
    (hlt : bs.length + cs.length * recordBound < 2 ^ 64) :
    Answers (Wrote s (bs ++ cs.flatMap fun c => channelRecord s.desc.dims c s.img)) (channelsFault s cs bs.length)
      (forChannels (compressChannel s.desc.dims) cs t) := by
  induction cs generalizing bs t with
  | nil => exact .ok rfl (by rwa [List.flatMap_nil, List.append_nil])
  | cons c cs ih =>
    have hbound := recordBound_eq
    rw [List.length_cons, Nat.succ_mul] at hlt
    have hchannel := compressChannel_answers h c (by omega)
    rw [forChannels_cons, channelsFault_cons]
    cases hf : channelFault s c bs.length with
    | some f =>
      rw [hf] at hchannel
      exact hchannel.bind_error
    | none =>
      rw [hf] at hchannel
      obtain ⟨-, -, hlen, -⟩ := channelFault_eq_none hf
      refine hchannel.bind fun u hu => ?_
      have hlength : (bs ++ channelRecord s.desc.dims c s.img).length =
          bs.length + 260 + (channelPayload s.desc.dims c s.img).length := by
        rw [List.length_append, channelRecord_length, Nat.add_assoc]
      have := ih hu (by omega)
      rw [hlength, List.append_assoc] at this
      rwa [List.flatMap_cons]

/-! ## The command -/

theorem imageFault_eq_none {s : State} (h : imageFault s = none) :
    s.desc.depth.toNat = 8 ∧ (s.desc.channels.toNat = 1 ∨ s.desc.channels.toNat = 3) ∧ s.desc.width.toNat ≠ 0 ∧
      s.desc.height.toNat ≠ 0 ∧
      overCap s.cfg.imgCap (s.desc.width.toNat * s.desc.height.toNat * s.desc.channels.toNat) = false := by
  simp only [imageFault] at h
  split_ifs at h with h1 h2 h3 h4
  exact ⟨by omega, by omega, by omega, by omega, by simpa using h4⟩

theorem compressBody_eq (s : State) :
    compressBody s = validateImage (resetEphemeral s) >>= fun d => writeHeader (resetEphemeral s) >>= fun t =>
      forChannels (compressChannel d) (List.range d.c) t >>= fun u => .ok (resetEphemeral (closeContainer u)) := rfl

/-- The first check of `COMPRESS` that fails, where the descriptor is valid (rule R203). -/
theorem compressFault_eq {s : State} (h : imageFault s = none) :
    compressFault s = ((fieldFault s.cfg.contCap 0 headerFields).map fun pos => ⟨.capCont, pos, s.curch⟩).or
      (channelsFault s (List.range s.desc.dims.c) 14) := by
  rw [compressFault, h, headerFields]
  cases fieldFault s.cfg.contCap 0 [3, 4, 4, 2, 1] <;> rfl

/-- `COMPRESS`: the image's container, or the first check that fails (rule R203). -/
theorem compressBody_answers (s : State) :
    Answers (fun u => ∃ t, Wrote s (imageContainer s) t ∧ u = resetEphemeral (closeContainer t)) (compressFault s)
      (compressBody s) := by
  have himg : imageFault (resetEphemeral s) = imageFault s := rfl
  rw [compressBody_eq, validateImage_eq, himg]
  cases hfault : imageFault s with
  | some f =>
    rw [compressFault, hfault]
    rfl
  | none =>
    obtain ⟨-, hc, -⟩ := imageFault_eq_none hfault
    rw [ok_bind, writeHeader_eq, compressFault_eq hfault]
    cases hfield : fieldFault s.cfg.contCap 0 headerFields with
    | some pos =>
      rw [fieldsOutcome_error (s := setCpos 0 (resetEphemeral s)) hfield]
      rfl
    | none =>
      have hstart : Wrote s [] (setCpos 0 (resetEphemeral s)) := ⟨rfl, rfl, rfl, rfl, rfl⟩
      have hheader := hstart.appendBytes (more := imageHeader s) (by simp)
      have hchannels := forChannels_compress_answers (cs := List.range s.desc.dims.c) hheader (by
        have hchannels : s.desc.dims.c = s.desc.channels.toNat := rfl
        rw [List.nil_append, imageHeader_length, List.length_range, recordBound_eq]; omega)
      rw [fieldsOutcome_ok (s := setCpos 0 (resetEphemeral s)) hfield, ok_bind]
      exact hchannels.bind_next fun u hu => .ok rfl ⟨u, hu, rfl⟩

theorem exec_compress_ok {s : State} (h : compressFault s = none) :
    ∃ t, exec .compress s = .next (complete (resetEphemeral (closeContainer t))) ∧ Wrote s (imageContainer s) t := by
  have hbody := compressBody_answers s
  rw [h] at hbody
  obtain ⟨u, hu, t, ht, rfl⟩ := hbody
  exact ⟨t, by rw [exec, execCompress, hu, endCommand_ok], ht⟩

theorem exec_compress_error {s : State} {e : Raise} (h : compressFault s = some e) :
    exec .compress s = .next (raise .cw e s) := by
  have hbody := compressBody_answers s
  rw [h] at hbody
  have hbody : compressBody s = .error e := hbody
  rw [exec, execCompress, hbody, endCommand_error]

/-- What `COMPRESS` leaves outside the container, the cursor and the ephemeral banks (rule R96). -/
theorem compress_frame {s t : State} (h : Writes (writtenBanks .compress) s t) :
    { withEphemeralOf t s with
      cont := s.cont, contLen := s.contLen, cpos := s.cpos, status := s.status, curch := s.curch } = s := by
  obtain ⟨hkind, hcause, hch, hpos⟩ := h.banks .errorRecord (by decide)
  have hresult : t.result = s.result := h.banks .result (by decide)
  have hdesc : t.desc = s.desc := h.banks .desc (by decide)
  have himg : t.img = s.img := h.banks .img (by decide)
  obtain ⟨hcfg, hport, hrunning, hdata, hreads⟩ := h.own
  rw [withEphemeralOf, hkind, hcause, hch, hpos, hresult, hdesc, himg, hcfg, hport, hrunning, hdata, hreads]

theorem imageContainer_length (s : State) :
    (imageContainer s).length =
      14 + ((List.range s.desc.channels.toNat).map fun c => 260 + (channelPayload s.desc.dims c s.img).length).sum := by
  have hc : s.desc.dims.c = s.desc.channels.toNat := rfl
  simp only [imageContainer, List.length_append, List.length_flatMap, channelRecord_length, imageHeader_length, hc]

theorem ephemeralClear_resetEphemeral (s : State) : EphemeralClear (resetEphemeral s) :=
  ⟨rfl, rfl, rfl, rfl, rfl, rfl, rfl, rfl, rfl, rfl⟩

/-- Settles O53: the command answers as `compressBody_answers` says, and writes no bank but its own (`exec_writes`). -/
theorem compressWritesTheContainer : Obligations.CompressWritesTheContainer := by
  intro s
  refine ⟨fun h => ?_, fun e h => exec_compress_error h⟩
  obtain ⟨t, ht, hw⟩ := exec_compress_ok h
  have hclear := ephemeralClear_resetEphemeral (closeContainer t)
  have hread := s.cont.readBytes_writeBytes 0 (imageContainer s)
  rw [← hw.cont] at hread
  refine ⟨_, ht, rfl, rfl, hw.cpos, rfl, hread, imageContainer_length s, fun a ha => ?_, ?_, ?_⟩
  · rw [complete_cont, resetEphemeral_cont, closeContainer_cont, hw.cont]
    exact s.cont.read_writeBytes_outside _ (.inr (by omega))
  · exact ⟨hclear.resN, hclear.freq, hclear.len, hclear.tbl, hclear.payLen, hclear.pkAcc, hclear.pkNb, hclear.upPos,
      hclear.upBit, hclear.trie⟩
  · exact compress_frame (exec_writes .compress s _ ht (by rw [complete_status]; decide))

end Sys2Proof.Machine
end

section
/-! SUPPORT. `DECOMPRESS` (rules R208, R209): every record decodes to the samples of its channel, or raises the first check that
fails. -/

namespace Sys2Proof.Machine

open Claims (writtenBanks withEphemeralOf)

/-! ## The samples that residuals stand for -/

/-- A residual bank that holds the listed residuals. -/
def residualMemory (rs : List Byte) : Memory := (Memory.unspecified 3 0).writeBytes 0 rs

theorem residualMemory_read {rs : List Byte} {i : Nat} (hi : i < rs.length) :
    (residualMemory rs).read i = rs.getD i 0 := by
  rw [residualMemory, Memory.read_writeBytes, if_pos ⟨Nat.zero_le i, by omega⟩, Nat.sub_zero]

/-- The inverse filter looks at the residuals of the channel only. -/
theorem inverseSamples_congr {d : Dims} {m m' : Memory} (h : ∀ i, i < d.h * d.w → m.read i = m'.read i) (c : Nat) :
    inverseSamples d c m = inverseSamples d c m' := by
  rw [inverseSamples, inverseSamples, List.flatMap_def, List.flatMap_def]
  refine congrArg List.flatten (List.map_congr_left fun y hy => ?_)
  have hy := List.mem_range.1 hy
  have hrow : m.readBytes (y * d.w) d.w = m'.readBytes (y * d.w) d.w :=
    Memory.readBytes_congr fun a ha hlt => h a (by
      obtain ⟨x, rfl⟩ := Nat.exists_eq_add_of_le ha
      exact rowIndex_lt hy (by omega))
  rw [inverseRow, inverseRow, hrow]

/-- The cells that the inverse filter writes for the listed channels with their residuals, with their values. -/
def imageWrites (d : Dims) (ps : List (Nat × List Byte)) : List (Nat × Byte) :=
  ps.flatMap fun p => inverseSamples d p.1 (residualMemory p.2)

theorem imageWrites_cells (d : Dims) (ps : List (Nat × List Byte)) :
    (imageWrites d ps).map Prod.fst = (ps.map Prod.fst).flatMap fun c => (List.range (d.h * d.w)).map fun i => i * d.c + c := by
  simp only [imageWrites, List.map_flatMap, inverseSamples_cells, List.flatMap_map]

/-- Samples of different channels lie in different cells (rule R68). -/
theorem imageWrites_cells_nodup {d : Dims} {ps : List (Nat × List Byte)} (hnd : (ps.map Prod.fst).Nodup)
    (hlt : ∀ p ∈ ps, p.1 < d.c) : ((imageWrites d ps).map Prod.fst).Nodup := by
  have hlt' : ∀ c ∈ ps.map Prod.fst, c < d.c := by simpa using hlt
  rw [imageWrites_cells, List.nodup_flatMap]
  refine ⟨fun c hc => ?_, hnd.imp_of_mem fun {c e} hc he hne => ?_⟩
  · rw [← inverseSamples_cells d c (residualMemory [])]
    exact inverseSamples_cells_nodup c (Nat.zero_lt_of_lt (hlt' c hc)) _
  · intro a ha ha'
    obtain ⟨i, -, rfl⟩ := List.mem_map.1 ha
    obtain ⟨j, -, hj⟩ := List.mem_map.1 ha'
    have hmod := congrArg (· % d.c) hj
    simp only [Nat.mul_add_mod_self_right, Nat.mod_eq_of_lt (hlt' c hc), Nat.mod_eq_of_lt (hlt' e he)] at hmod
    exact hne hmod.symm

theorem imageWrites_cell_lt {d : Dims} {ps : List (Nat × List Byte)} (hlt : ∀ p ∈ ps, p.1 < d.c) :
    ∀ q ∈ imageWrites d ps, q.1 < d.w * d.h * d.c := by
  intro q hq
  have hcell : q.1 ∈ (imageWrites d ps).map Prod.fst := List.mem_map_of_mem hq
  rw [imageWrites_cells] at hcell
  obtain ⟨c, hc, hcell⟩ := List.mem_flatMap.1 hcell
  obtain ⟨p, hp, rfl⟩ := List.mem_map.1 hc
  obtain ⟨i, hi, hi'⟩ := List.mem_map.1 hcell
  rw [← hi', Nat.mul_comm d.w d.h]
  exact rowIndex_lt (List.mem_range.1 hi) (hlt p hp)

section
variable {d : Dims} {ps : List (Nat × List Byte)} (hnd : (ps.map Prod.fst).Nodup) (hlt : ∀ p ∈ ps, p.1 < d.c) {c y x : Nat}
  {rs : List Byte} (hp : (c, rs) ∈ ps) (hy : y < d.h) (hx : x < d.w)
include hnd hlt hp hy hx

/-- Every sample of a listed channel is the one that the inverse filter gives (rule R124). -/
theorem imageWrites_read (m : Memory) :
    (m.writeAll (imageWrites d ps)).read (d.sample c y x) =
      (invRow ((residualMemory rs).readBytes (y * d.w) d.w)).getD x 0 :=
  Memory.read_writeAll_mem m _ (imageWrites_cells_nodup hnd hlt)
    (List.mem_flatMap.2 ⟨(c, rs), hp, mem_inverseSamples d c hy hx _⟩)

/-- The same as the sum of its row's residuals up to it (rule R121). -/
theorem imageWrites_read_toNat (hn : rs.length = d.n) (m : Memory) :
    ((m.writeAll (imageWrites d ps)).read (d.sample c y x)).toNat =
      ((List.range (x + 1)).map fun k => (rs.getD (y * d.w + k) 0).toNat).sum % 256 := by
  rw [imageWrites_read hnd hlt hp hy hx, invRow_readBytes_toNat hx]
  refine congrArg (fun l => List.sum l % 256) (List.map_congr_left fun k hk => ?_)
  have hk := List.mem_range.1 hk
  rw [residualMemory_read]
  rw [hn, Dims.n, Nat.mul_comm d.w]
  exact rowIndex_lt hy (by omega)

end

theorem Memory.writeAll_append (m : Memory) (ps qs : List (Nat × Byte)) :
    m.writeAll (ps ++ qs) = (m.writeAll ps).writeAll qs := by
  induction ps generalizing m with
  | nil => rfl
  | cons p ps ih =>
    obtain ⟨a, b⟩ := p
    exact ih (m.write a b)

/-! ## The record at an offset -/

/-- The length table of the record at an offset (rule R102). -/
def recordLengths (m : Memory) (off : Nat) : Vector (BitVec 8) 256 := lengthBank (m.readBytes off 256)

/-- The payload bits of the record at an offset (rule R102). -/
def recordBits (m : Memory) (off : Nat) : List Bool := (m.readBytes (off + 260) (payloadCount m off)).flatMap byteBits

/-- The walk that decodes the record at an offset (rule R183). -/
def recordWalk (m : Memory) (n off : Nat) : Except (Cause × Nat) (List Byte × List Bool) :=
  walkSymbols (trieOf (canonicalTable (recordLengths m off))) n 0 (recordBits m off)

section
variable {s : State} {n off : Nat}

theorem recordAt_cut {f : Cause × Nat} (h : readFault s off = some f) : recordAt s n off = .error f := by
  rw [readFault] at h
  simp only [recordAt, ← payloadCount.eq_1]
  split_ifs at h ⊢ <;> exact congrArg Except.error (Option.some.inj h)

/-- Behind a record that is whole, the checks on its table and on `RES`, then the walk (rule R208). -/
theorem recordAt_whole (h : readFault s off = none) :
    recordAt s n off =
      if 2 ^ 255 < kraftSum (lengthList (recordLengths s.cont off)) then .error (.badLengthTable, 0)
      else if overCap s.cfg.resCap n then .error (.capRes, n)
      else (recordWalk s.cont n off).map fun p => (p.1, off + 260 + payloadCount s.cont off) := by
  obtain ⟨hlen, hcap⟩ := readFault_eq_none_iff.1 h
  simp only [recordAt, ← payloadCount.eq_1, ← recordLengths.eq_1, ← recordBits.eq_1, ← recordWalk.eq_1, hcap]
  rw [if_neg (by omega), if_neg (by omega), if_neg (by omega), if_neg Bool.false_ne_true]
  cases recordWalk s.cont n off <;> rfl

theorem walkSymbols_length {t : List TrieNode} {k : Nat} {bits rest : List Bool} {vs : List Byte}
    (h : walkSymbols t n k bits = .ok (vs, rest)) : vs.length = n := by
  induction n generalizing k bits vs with
  | zero =>
    obtain ⟨rfl, -⟩ := Prod.mk.inj (Except.ok.inj h)
    rfl
  | succ n ih =>
    rw [walkSymbols] at h
    split at h
    · cases h
    · split at h
      · cases h
      · next hws =>
        obtain ⟨rfl, rfl⟩ := Prod.mk.inj (Except.ok.inj h)
        rw [List.length_cons, ih hws]

/-- A record that decodes has passed every check (rule R208). -/
theorem recordAt_ok {rs : List Byte} {off' : Nat} (h : recordAt s n off = .ok (rs, off')) :
    readFault s off = none ∧ KraftValid (recordLengths s.cont off) ∧ overCap s.cfg.resCap n = false ∧
      (∃ rest, recordWalk s.cont n off = .ok (rs, rest)) ∧ off' = off + 260 + payloadCount s.cont off ∧ rs.length = n := by
  cases hf : readFault s off with
  | some f => rw [recordAt_cut hf] at h; cases h
  | none =>
    rw [recordAt_whole hf] at h
    split_ifs at h with hk hcap
    cases hw : recordWalk s.cont n off with
    | error e => rw [hw] at h; cases h
    | ok p =>
      rw [hw] at h
      obtain ⟨rfl, rfl⟩ := Prod.mk.inj (Except.ok.inj h)
      exact ⟨rfl, Nat.le_of_not_lt hk, by simpa using hcap, ⟨p.2, rfl⟩, rfl, walkSymbols_length hw⟩

/-! ## The records of a list of channels -/

theorem recordsAt_cons_error {c : Nat} {f : Cause × Nat} (h : recordAt s n off = .error f) (cs : List Nat) :
    recordsAt s n (c :: cs) off = .error ⟨f.1, f.2, BitVec.ofNat 2 c⟩ := by
  rw [recordsAt, h]

theorem recordsAt_cons_ok {c off' : Nat} {rs : List Byte} (h : recordAt s n off = .ok (rs, off')) (cs : List Nat) :
    recordsAt s n (c :: cs) off = (recordsAt s n cs off').map fun p => (rs :: p.1, p.2) := by
  rw [recordsAt, h]
  cases hr : recordsAt s n cs off' with
  | error e => simp only [hr]; rfl
  | ok p => simp only [hr]; rfl

theorem recordsAt_length {cs : List Nat} {rss : List (List Byte)} {off' : Nat}
    (h : recordsAt s n cs off = .ok (rss, off')) : rss.length = cs.length ∧ ∀ rs ∈ rss, rs.length = n := by
  induction cs generalizing off rss with
  | nil =>
    obtain ⟨rfl, -⟩ := Prod.mk.inj (Except.ok.inj h)
    exact ⟨rfl, nofun⟩
  | cons c cs ih =>
    cases hr : recordAt s n off with
    | error f => rw [recordsAt_cons_error hr] at h; cases h
    | ok p =>
      rw [recordsAt_cons_ok hr] at h
      cases hrs : recordsAt s n cs p.2 with
      | error e => rw [hrs] at h; cases h
      | ok q =>
        rw [hrs] at h
        obtain ⟨rfl, rfl⟩ := Prod.mk.inj (Except.ok.inj h)
        obtain ⟨hlen, hall⟩ := ih hrs
        obtain ⟨-, -, -, -, -, hn⟩ := recordAt_ok hr
        exact ⟨by rw [List.length_cons, List.length_cons, hlen], List.forall_mem_cons.2 ⟨hn, hall⟩⟩

end

/-! ## One channel -/

/-- `t` has the container of `s` and the descriptor of its header; the cursor is at `off` and the cells `ws` of the image are
written. -/
structure Reads (s : State) (off : Nat) (ws : List (Nat × Byte)) (t : State) : Prop where
  cfg : t.cfg = s.cfg
  contLen : t.contLen = s.contLen
  cont : t.cont = s.cont
  desc : t.desc = headerDesc s
  img : t.img = s.img.writeAll ws
  cpos : t.cpos.toNat = off

theorem Reads.readFault {s t : State} {off : Nat} {ws : List (Nat × Byte)} (h : Reads s off ws t) (k : Nat) :
    readFault t k = readFault s k := by
  rw [Machine.readFault, Machine.readFault, h.cfg, h.contLen, h.cont]

/-- The record is in the banks, the trie is that of its table, and `n` symbols are to be decoded. -/
structure Loaded (s : State) (n off : Nat) (t : State) : Prop where
  trie : t.trie = trieOf (canonicalTable (recordLengths s.cont off))
  resN : t.resN.toNat = n
  bits : payloadBits t = recordBits s.cont off

theorem Loaded.walk {s t : State} {n off : Nat} (h : Loaded s n off t) :
    walkSymbols t.trie t.resN.toNat 0 (payloadBits t) = recordWalk s.cont n off := by
  rw [h.trie, h.resN, h.bits, recordWalk]

/-- The record decodes: its residuals are in `RES` (rule R183). -/
theorem Loaded.decodeChannel_ok {s t : State} {n off : Nat} (h : Loaded s n off t) {rs : List Byte} {rest : List Bool}
    (hw : recordWalk s.cont n off = .ok (rs, rest)) :
    ∃ u, decodeChannel t = .ok u ∧
      u = { t with upPos := u.upPos, upBit := u.upBit, res := t.res.writeBytes 0 rs } := by
  rw [← h.walk] at hw
  obtain ⟨bits, u, hu, hcons, -, -⟩ := decodeSymbols_ok (s := unpackInit t) hw
  exact ⟨_, hu, by rw [hcons.frame]; rfl⟩

theorem Loaded.decodeChannel_error {s t : State} {n off : Nat} (h : Loaded s n off t) {c : Cause} {i : Nat}
    (hw : recordWalk s.cont n off = .error (c, i)) : decodeChannel t = .error ⟨c, i, t.curch⟩ := by
  rw [← h.walk] at hw
  exact decodeSymbols_error (s := unpackInit t) hw

/-- The state with cells of the image written. -/
def writeImage (ws : List (Nat × Byte)) (s : State) : State := { s with img := s.img.writeAll ws }

theorem Reads.writeImage {s t : State} {off : Nat} {ws : List (Nat × Byte)} (h : Reads s off ws t)
    (more : List (Nat × Byte)) : Reads s off (ws ++ more) (writeImage more t) :=
  ⟨h.cfg, h.contLen, h.cont, h.desc, by rw [Memory.writeAll_append, ← h.img]; rfl, h.cpos⟩

/-- The inverse filter behind a decoded channel (rules R124, R208). -/
theorem filterInverse_decoded {d : Dims} {rs : List Byte} (hrs : rs.length = d.n) (c : Nat) {s : State} {m : Memory}
    (hres : s.res = m.writeBytes 0 rs) :
    filterInverse d c s = writeImage (imageWrites d [(c, rs)]) s := by
  have hsame : inverseSamples d c s.res = inverseSamples d c (residualMemory rs) := inverseSamples_congr (fun i hi => by
    have hi : i < rs.length := by rwa [hrs, Dims.n, Nat.mul_comm]
    rw [residualMemory_read hi, hres, Memory.read_writeBytes, if_pos ⟨Nat.zero_le i, by omega⟩, Nat.sub_zero]) c
  rw [filterInverse, hsame, writeImage, imageWrites, List.flatMap_singleton]

/-- `RES_N` set to a number of symbols (rule R208). -/
def setResN (n : Nat) (s : State) : State := { s with resN := BitVec.ofNat 64 n }

/-- The table of the lengths in `LEN` (rule R154). -/
def setTable (s : State) : State := { s with tbl := canonicalTable s.len }

/-- The state in which the record at the cursor is decoded into `n` symbols (rule R208). -/
def prepareRecord (n : Nat) (s : State) : State := setResN n (buildTrie (setTable (loadRecord s)))

theorem decompressChannel_eq (d : Dims) (c : Nat) (s : State) :
    decompressChannel d c s = readChannel (setChannel c s) >>= fun t => buildTable t >>= fun u =>
      checkResOut d (buildTrie u) >>= fun _ => decodeChannel (setResN d.n (buildTrie u)) >>= fun v =>
        .ok (filterInverse d c v) := rfl

theorem buildTable_eq (s : State) :
    buildTable s = if 2 ^ 255 < kraftSum (lengthList s.len) then .error ⟨.badLengthTable, 0, s.curch⟩ else .ok (setTable s) :=
  rfl

theorem loadRecord_curch (s : State) : (loadRecord s).curch = s.curch := rfl

theorem setTable_curch (s : State) : (setTable s).curch = s.curch := rfl

theorem prepareRecord_curch (n : Nat) (s : State) : (prepareRecord n s).curch = s.curch := by
  have h (t : State) : (setResN n t).curch = t.curch := rfl
  rw [prepareRecord, h, buildTrie_curch, setTable_curch, loadRecord_curch]

section
variable {s t : State} {off : Nat} {ws : List (Nat × Byte)}

theorem Reads.setChannel (h : Reads s off ws t) (c : Nat) : Reads s off ws (setChannel c t) :=
  ⟨h.cfg, h.contLen, h.cont, h.desc, h.img, h.cpos⟩

theorem Reads.setTable (h : Reads s off ws t) : Reads s off ws (setTable t) :=
  ⟨h.cfg, h.contLen, h.cont, h.desc, h.img, h.cpos⟩

theorem Reads.setResN (h : Reads s off ws t) (n : Nat) : Reads s off ws (setResN n t) :=
  ⟨h.cfg, h.contLen, h.cont, h.desc, h.img, h.cpos⟩

theorem Reads.buildTrie (h : Reads s off ws t) : Reads s off ws (buildTrie t) :=
  ⟨by rw [buildTrie_cfg, h.cfg], by rw [buildTrie_contLen, h.contLen], by rw [buildTrie_cont, h.cont],
    by rw [buildTrie_desc, h.desc], by rw [buildTrie_img, h.img], by rw [buildTrie_cpos, h.cpos]⟩

theorem Reads.loadRecord (h : Reads s off ws t) (hf : Machine.readFault s off = none) :
    Reads s (off + 260 + payloadCount s.cont off) ws (loadRecord t) := by
  obtain ⟨hlen, -⟩ := readFault_eq_none_iff.1 hf
  have hlt := s.contLen.isLt
  refine ⟨h.cfg, h.contLen, h.cont, h.desc, h.img, ?_⟩
  have hpos : (Machine.loadRecord t).cpos.toNat = (t.cpos.toNat + 260 + payloadCount t.cont t.cpos.toNat) % 2 ^ 64 := rfl
  rw [hpos, h.cpos, h.cont]
  exact Nat.mod_eq_of_lt (by omega)

theorem Reads.loadRecord_len (h : Reads s off ws t) : (Machine.loadRecord t).len = recordLengths s.cont off := by
  have hlen : (Machine.loadRecord t).len = lengthBank (t.cont.readBytes t.cpos.toNat 256) := rfl
  rw [hlen, h.cpos, h.cont, recordLengths]

theorem Reads.payloadBits_loadRecord (h : Reads s off ws t) :
    payloadBits (Machine.loadRecord t) = recordBits s.cont off := by
  rw [payloadBits, loadRecord_payBytes, h.cpos, h.cont, recordBits]

theorem Reads.prepareRecord (h : Reads s off ws t) (hf : Machine.readFault s off = none) (n : Nat) :
    Reads s (off + 260 + payloadCount s.cont off) ws (prepareRecord n t) :=
  (h.loadRecord hf).setTable.buildTrie.setResN n

theorem Reads.loaded_prepareRecord (h : Reads s off ws t) {n : Nat} (hn : n < 2 ^ 64) :
    Loaded s n off (Machine.prepareRecord n t) where
  trie := by
    have htrie (u : State) : (Machine.setResN n u).trie = u.trie := rfl
    have htbl (u : State) : (Machine.setTable u).tbl = canonicalTable u.len := rfl
    rw [Machine.prepareRecord, htrie, buildTrie_trie, htbl, h.loadRecord_len]
  resN := Nat.mod_eq_of_lt hn
  bits := by
    rw [← h.payloadBits_loadRecord, payloadBits, payloadBits]
    have hpay (u : State) : (Machine.setResN n u).pay = u.pay ∧ (Machine.setResN n u).payLen = u.payLen := ⟨rfl, rfl⟩
    have htbl (u : State) : (Machine.setTable u).pay = u.pay ∧ (Machine.setTable u).payLen = u.payLen := ⟨rfl, rfl⟩
    rw [Machine.prepareRecord, (hpay _).1, (hpay _).2, buildTrie_pay, buildTrie_payLen, (htbl _).1, (htbl _).2]

/-- A channel whose record decodes is in the image (rule R208). -/
theorem decompressChannel_ok {d : Dims} (hn : d.n < 2 ^ 64) (h : Reads s off ws t) {c off' : Nat} {rs : List Byte}
    (hr : recordAt s d.n off = .ok (rs, off')) :
    ∃ u, decompressChannel d c t = .ok u ∧ Reads s off' (ws ++ imageWrites d [(c, rs)]) u := by
  obtain ⟨hf, hk, hcap, ⟨rest, hw⟩, rfl, hlen⟩ := recordAt_ok hr
  have hc := h.setChannel c
  have hprep := hc.prepareRecord hf d.n
  obtain ⟨u, hu, hframe⟩ := (hc.loaded_prepareRecord hn).decodeChannel_ok hw
  have hres : u.res = (prepareRecord d.n (setChannel c t)).res.writeBytes 0 rs := (congrArg State.res hframe :)
  have hdecoded : Reads s (off + 260 + payloadCount s.cont off) ws u := by
    rw [hframe]
    exact ⟨hprep.cfg, hprep.contLen, hprep.cont, hprep.desc, hprep.img, hprep.cpos⟩
  refine ⟨writeImage (imageWrites d [(c, rs)]) u, ?_, hdecoded.writeImage _⟩
  · rw [decompressChannel_eq, readChannel_eq, hc.readFault, hc.cpos, hf, orRaise_none, ok_bind, buildTable_eq,
      hc.loadRecord_len, if_neg (Nat.not_lt.2 hk), ok_bind, checkResOut_eq, buildTrie_cfg, (hc.loadRecord hf).setTable.cfg,
      hcap, if_neg Bool.false_ne_true, ok_bind]
    rw [← prepareRecord, hu, ok_bind, filterInverse_decoded hlen c hres]

/-- A channel whose record fails a check raises it with `ERR_CH` that channel (rules R208, R242). -/
theorem decompressChannel_error {d : Dims} (hn : d.n < 2 ^ 64) (h : Reads s off ws t) {c : Nat} {f : Cause × Nat}
    (hr : recordAt s d.n off = .error f) : decompressChannel d c t = .error ⟨f.1, f.2, BitVec.ofNat 2 c⟩ := by
  have hc := h.setChannel c
  rw [decompressChannel_eq, readChannel_eq, hc.readFault, hc.cpos, setChannel_curch]
  cases hf : Machine.readFault s off with
  | some g =>
    rw [recordAt_cut hf] at hr
    rw [← Except.error.inj hr]
    rfl
  | none =>
    rw [recordAt_whole hf] at hr
    rw [orRaise_none, ok_bind, buildTable_eq, hc.loadRecord_len, loadRecord_curch, setChannel_curch]
    split_ifs at hr with hk hcap
    · rw [if_pos hk, ← Except.error.inj hr]
      rfl
    · rw [if_neg hk, ok_bind, checkResOut_eq, buildTrie_cfg, (hc.loadRecord hf).setTable.cfg, if_pos hcap,
        buildTrie_curch, setTable_curch, loadRecord_curch, setChannel_curch, ← Except.error.inj hr]
      rfl
    · cases hw : recordWalk s.cont d.n off with
      | ok p => rw [hw] at hr; cases hr
      | error e =>
        rw [hw] at hr
        rw [if_neg hk, ok_bind, checkResOut_eq, buildTrie_cfg, (hc.loadRecord hf).setTable.cfg, if_neg hcap, ok_bind,
          ← prepareRecord, (hc.loaded_prepareRecord hn).decodeChannel_error hw, prepareRecord_curch, setChannel_curch,
          ← Except.error.inj hr]
        rfl

/-! ## All channels -/

theorem forChannels_decompress_ok {d : Dims} (hn : d.n < 2 ^ 64) {cs : List Nat} (h : Reads s off ws t) {off' : Nat}
    {rss : List (List Byte)} (hr : recordsAt s d.n cs off = .ok (rss, off')) :
    ∃ u, forChannels (decompressChannel d) cs t = .ok u ∧ Reads s off' (ws ++ imageWrites d (cs.zip rss)) u := by
  induction cs generalizing off ws t rss with
  | nil =>
    obtain ⟨rfl, rfl⟩ := Prod.mk.inj (Except.ok.inj hr)
    exact ⟨t, rfl, by rwa [List.zip_nil_left, imageWrites, List.flatMap_nil, List.append_nil]⟩
  | cons c cs ih =>
    cases hc : recordAt s d.n off with
    | error f => rw [recordsAt_cons_error hc] at hr; cases hr
    | ok p =>
      rw [recordsAt_cons_ok hc] at hr
      cases hcs : recordsAt s d.n cs p.2 with
      | error e => rw [hcs] at hr; cases hr
      | ok q =>
        rw [hcs] at hr
        obtain ⟨rfl, rfl⟩ := Prod.mk.inj (Except.ok.inj hr)
        obtain ⟨u, hu, hread⟩ := decompressChannel_ok hn h (c := c) hc
        obtain ⟨v, hv, hrest⟩ := ih hread hcs
        refine ⟨v, by rw [forChannels_cons, hu, ok_bind, hv], ?_⟩
        rwa [List.append_assoc, imageWrites, imageWrites, ← List.flatMap_append] at hrest

theorem forChannels_decompress_error {d : Dims} (hn : d.n < 2 ^ 64) {cs : List Nat} (h : Reads s off ws t) {e : Raise}
    (hr : recordsAt s d.n cs off = .error e) : forChannels (decompressChannel d) cs t = .error e := by
  induction cs generalizing off ws t with
  | nil => cases hr
  | cons c cs ih =>
    rw [forChannels_cons]
    cases hc : recordAt s d.n off with
    | error f =>
      rw [recordsAt_cons_error hc] at hr
      rw [decompressChannel_error hn h hc, ← Except.error.inj hr]
      rfl
    | ok p =>
      rw [recordsAt_cons_ok hc] at hr
      cases hcs : recordsAt s d.n cs p.2 with
      | ok q => rw [hcs] at hr; cases hr
      | error e' =>
        rw [hcs] at hr
        obtain rfl : e' = e := Except.error.inj hr
        obtain ⟨u, hu, hread⟩ := decompressChannel_ok hn h (c := c) hc
        rw [hu, ok_bind, ih hread hcs]

end

/-! ## The command -/

/-- No check fails exactly when the first does not and none of the others does. -/
theorem ite_some_eq_none_iff {α : Type} (p : Prop) [Decidable p] (a : α) (o : Option α) :
    (if p then some a else o) = none ↔ ¬ p ∧ o = none := by
  split <;> simp [*]

theorem headerFault_eq_none {s : State} (h : headerFault s = none) :
    overCap s.cfg.contCap s.contLen.toNat = false ∧ 14 ≤ s.contLen.toNat ∧ headerWidth s ≠ 0 ∧ headerHeight s ≠ 0 ∧
      (headerChannels s = 1 ∨ headerChannels s = 3) ∧
      overCap s.cfg.imgCap (headerWidth s * headerHeight s * headerChannels s) = false := by
  simp only [headerFault, ite_some_eq_none_iff, Bool.not_eq_true] at h
  obtain ⟨hcont, -, -, -, -, -, hlen, hw, hh, hc, himg, -⟩ := h
  exact ⟨hcont, by omega, hw, hh, by omega, himg⟩

theorem headerDesc_dims (s : State) :
    (headerDesc s).dims = { w := headerWidth s, h := headerHeight s, c := headerChannels s } := by
  obtain ⟨hw, hh, -, -⟩ := uLE_header s
  have hbound (a : Nat) : uLE (s.cont.readBytes a 4) < 2 ^ 32 := by
    have h := uLE_lt (s.cont.readBytes a 4)
    rwa [Memory.readBytes_length, show 256 ^ 4 = 2 ^ 32 by norm_num] at h
  simp only [Desc.dims, headerDesc, headerChannels, Dims.mk.injEq, BitVec.toNat_ofNat, and_true]
  exact ⟨Nat.mod_eq_of_lt (hw ▸ hbound 3), Nat.mod_eq_of_lt (hh ▸ hbound 7)⟩

theorem headerDesc_dims_n (s : State) : (headerDesc s).dims.n = headerWidth s * headerHeight s := by
  rw [headerDesc_dims, Dims.n]

theorem containerRecords_eq (s : State) :
    containerRecords s = recordsAt s (headerDesc s).dims.n (List.range (headerDesc s).dims.c) 14 := by
  rw [containerRecords, headerDesc_dims_n, headerDesc_dims]

theorem withHeader_reads (s : State) : Reads s 14 [] (withHeader (resetEphemeral s)) := ⟨rfl, rfl, rfl, rfl, rfl, rfl⟩

theorem decompressBody_eq (s : State) :
    decompressBody s = hdrRdBody (resetEphemeral s) >>= fun t =>
      forChannels (decompressChannel t.desc.dims) (List.range t.desc.dims.c) t >>= fun u => .ok (resetEphemeral u) := by
  rw [hdrRdBody, decompressBody]
  cases checkCont (resetEphemeral s) <;> rfl

theorem headerFault_resetEphemeral (s : State) : headerFault (resetEphemeral s) = headerFault s := rfl

/-- `DECOMPRESS` of a container whose header is valid and whose records decode (rule R209). -/
theorem exec_decompress_ok {s : State} (hh : headerFault s = none) {rss : List (List Byte)} {off : Nat}
    (hr : containerRecords s = .ok (rss, off)) :
    ∃ u, exec .decompress s = .next (complete (resetEphemeral u)) ∧
      Reads s off (imageWrites (headerDesc s).dims ((List.range (headerChannels s)).zip rss)) u := by
  rw [containerRecords_eq] at hr
  obtain ⟨u, hu, hread⟩ := forChannels_decompress_ok (dims_n_lt _) (withHeader_reads s) hr
  refine ⟨u, ?_, ?_⟩
  · have hdesc : (withHeader (resetEphemeral s)).desc = headerDesc s := rfl
    rw [exec, execDecompress, decompressBody_eq, hdrRdBody_eq, headerFault_resetEphemeral, hh, orRaise_none, ok_bind, hdesc,
      hu, ok_bind, endCommand_ok]
  · have hc : (headerDesc s).dims.c = headerChannels s := by rw [headerDesc_dims]
    rwa [List.nil_append, hc] at hread

theorem exec_decompress_header {s : State} {f : Cause × Nat} (hh : headerFault s = some f) :
    exec .decompress s = .next (raise .iw ⟨f.1, f.2, s.curch⟩ s) := by
  rw [exec, execDecompress, decompressBody_eq, hdrRdBody_eq, headerFault_resetEphemeral, hh]
  rfl

theorem exec_decompress_record {s : State} (hh : headerFault s = none) {e : Raise} (hr : containerRecords s = .error e) :
    exec .decompress s = .next (raise .iw e s) := by
  have hdesc : (withHeader (resetEphemeral s)).desc = headerDesc s := rfl
  rw [containerRecords_eq] at hr
  rw [exec, execDecompress, decompressBody_eq, hdrRdBody_eq, headerFault_resetEphemeral, hh, orRaise_none, ok_bind, hdesc,
    forChannels_decompress_error (dims_n_lt _) (withHeader_reads s) hr]
  rfl

/-- What `DECOMPRESS` leaves outside the image, the cursor and the ephemeral banks (rule R96). -/
theorem decompress_frame {s t : State} (h : Writes (writtenBanks .decompress) s t) :
    { withEphemeralOf t s with
      desc := s.desc, img := s.img, cpos := s.cpos, status := s.status, curch := s.curch } = s := by
  obtain ⟨hkind, hcause, hch, hpos⟩ := h.banks .errorRecord (by decide)
  have hresult : t.result = s.result := h.banks .result (by decide)
  obtain ⟨hlen, hcont⟩ := h.banks .cont (by decide)
  obtain ⟨hcfg, hport, hrunning, hdata, hreads⟩ := h.own
  rw [withEphemeralOf, hkind, hcause, hch, hpos, hresult, hlen, hcont, hcfg, hport, hrunning, hdata, hreads]

/-- The channels with their residuals are different channels of the image. -/
theorem zip_range_channels {C : Nat} {rss : List (List Byte)} (hlen : rss.length = C) :
    ((List.range C).zip rss).map Prod.fst = List.range C ∧
      (∀ p ∈ (List.range C).zip rss, p.1 < C) ∧ ∀ c, c < C → (c, rss.getD c []) ∈ (List.range C).zip rss := by
  refine ⟨List.map_fst_zip (by rw [List.length_range, hlen]), fun p hp => List.mem_range.1 (List.of_mem_zip hp).1,
    fun c hc => ?_⟩
  have hget : ((List.range C).zip rss)[c]'(by simp [hlen, hc]) = (c, rss.getD c []) := by
    simp [hlen, hc]
  exact hget ▸ List.getElem_mem _

/-- Settles O54: the header and the records are read as `exec_decompress_ok` says, each sample is in one cell of its channel
(`imageWrites_read`), and only the command's own banks are written (`exec_writes`). -/
theorem decompressReadsTheContainer : Obligations.DecompressReadsTheContainer := by
  intro s
  refine ⟨fun rss off hh hr => ?_, fun c p hh => exec_decompress_header hh, fun e hh hr => exec_decompress_record hh hr⟩
  obtain ⟨u, hu, hread⟩ := exec_decompress_ok hh hr
  obtain ⟨hlen, hall⟩ := recordsAt_length hr
  rw [List.length_range] at hlen
  obtain ⟨hfst, hlt, hmem⟩ := zip_range_channels hlen
  have hnd : (((List.range (headerChannels s)).zip rss).map Prod.fst).Nodup := by rw [hfst]; exact List.nodup_range
  have hdims := headerDesc_dims s
  have himg := hread.img
  rw [hdims] at himg
  refine ⟨_, hu, rfl, rfl, hread.desc, hread.cpos, fun c y x hc hy hx => ?_, fun a ha => ?_, ?_, ?_⟩
  · rw [complete_img, resetEphemeral_img, himg]
    have hn : (rss.getD c []).length = headerWidth s * headerHeight s := hall _ (by
      rw [List.getD_eq_getElem _ _ (hlen ▸ hc)]
      exact List.getElem_mem _)
    exact imageWrites_read_toNat (d := { w := headerWidth s, h := headerHeight s, c := headerChannels s }) hnd hlt (hmem c hc)
      hy hx hn s.img
  · rw [complete_img, resetEphemeral_img, himg]
    refine Memory.read_writeAll_outside _ _ fun q hq hqa => ?_
    exact absurd (hqa ▸ imageWrites_cell_lt hlt q hq) (Nat.not_lt.2 ha)
  · have hclear := ephemeralClear_resetEphemeral u
    exact ⟨hclear.resN, hclear.freq, hclear.len, hclear.tbl, hclear.payLen, hclear.pkAcc, hclear.pkNb, hclear.upPos,
      hclear.upBit, hclear.trie⟩
  · exact decompress_frame (exec_writes .decompress s _ hu (by rw [complete_status]; decide))

end Sys2Proof.Machine
end

section
/-! SUPPORT. Payloads as bits (rules R106, R163): the bits of a padded payload are the codes and at most seven zero bits, and a
payload that is too short runs out of bits at one of its symbols. -/

namespace Sys2Proof.Machine

/-! ## The bits of a padded payload -/

/-- The bits of a byte that eight bits spell are those bits. -/
theorem byteBits_ofNat_foldl (f : Nat → Bool) :
    byteBits (BitVec.ofNat 8 ((List.range 8).foldl (fun acc k => 2 * acc + (f k).toNat) 0)) = (List.range 8).map f := by
  have key : ∀ b0 b1 b2 b3 b4 b5 b6 b7 : Bool,
      byteBits (BitVec.ofNat 8 ([b0, b1, b2, b3, b4, b5, b6, b7].foldl (fun acc b => 2 * acc + b.toNat) 0)) =
        [b0, b1, b2, b3, b4, b5, b6, b7] := by decide
  exact key (f 0) (f 1) (f 2) (f 3) (f 4) (f 5) (f 6) (f 7)

/-- A bit sequence read beyond its end is followed by zero bits. -/
theorem map_getD_false_range (bits : List Bool) (p : Nat) :
    ((List.range (bits.length + p)).map fun i => bits.getD i false) = bits ++ List.replicate p false := by
  refine List.ext_getElem (by simp) fun i hi _ => ?_
  simp only [List.getElem_map, List.getElem_range]
  rw [← getD_append_replicate_false bits p, List.getD_eq_getElem _ _ (by simpa using hi)]

/-- The bits of the bytes of a bit sequence (rule R163). -/
theorem flatMap_byteBits_bytesOfBits (bits : List Bool) :
    ∃ p, p < 8 ∧ (bytesOfBits bits).flatMap byteBits = bits ++ List.replicate p false := by
  refine ⟨(bits.length + 7) / 8 * 8 - bits.length, by omega, ?_⟩
  have hlen : (bits.length + 7) / 8 * 8 = bits.length + ((bits.length + 7) / 8 * 8 - bits.length) := by omega
  rw [← map_getD_false_range, ← hlen, ← flatMap_rows_eq_map fun i => bits.getD i false]
  have hbyte (i : Nat) := byteBits_ofNat_foldl fun k => bits.getD (8 * i + k) false
  simp only [bytesOfBits, List.flatMap_map, hbyte]
  simp only [Nat.mul_comm 8]

/-! ## A payload that is too short -/

/-- A walk along bits that are a beginning of a path, but reach no mark, runs out of bits (rule R180). -/
theorem Spells.walkSymbol_exhausted {t : List TrieNode} {paths : List (List Bool)} {mark : List Bool → BitVec 9}
    (h : Spells t paths mark) (hsize : t.length ≤ 65535) {node : Nat} {p bits : List Bool} (hn : paths[node]? = some p)
    (hpath : p ++ bits ∈ paths) (hnone : ∀ q, q <+: p ++ bits → mark q = NONE) :
    Machine.walkSymbol t node bits = .error .streamExhausted := by
  have hmark : (trieNode t node).sym = NONE := by rw [h.sym hn, hnone p (List.prefix_append _ _)]
  induction bits generalizing node p with
  | nil => exact walkSymbol_nil hmark
  | cons b bits ih =>
    rw [List.append_cons] at hpath hnone
    obtain ⟨hb, hedge⟩ := h.follow hsize hn (h.prefix_mem (List.prefix_append _ _) hpath)
    rw [walkSymbol_cons hmark, if_neg hb]
    exact ih hedge hpath hnone (by rw [h.sym hedge, hnone _ (List.prefix_append _ _)])

section
variable {len : Vector (BitVec 8) 256} (hk : KraftValid len)
include hk

/-- A code that is cut short runs out of bits (rules R157, R180). -/
theorem walkSymbol_cut {v : Byte} (hv : len[v.toNat] ≠ 0) {bits : List Bool}
    (hbits : bits <+: symbolBits (canonicalTable len) v) (hne : bits ≠ symbolBits (canonicalTable len) v) :
    walkSymbol (trieOf (canonicalTable len)) 0 bits = .error .streamExhausted := by
  obtain ⟨paths, mark, h⟩ := trieOf_holdsCodes (canonicalTable len)
  refine h.toSpells.walkSymbol_exhausted h.length_le h.root (h.toSpells.prefix_mem hbits (h.symbol_mem hv)) fun q hq => ?_
  by_contra hmark
  obtain ⟨u, -, hu, rfl, -⟩ := h.markOf q hmark
  obtain rfl := symbolBits_prefix hk hu hv (hq.trans hbits)
  exact hne (hbits.eq_of_length_le hq.length_le)

/-- Codes of which the last bits are missing run out of bits at one of their symbols (rules R169, R183). -/
theorem walkSymbols_cut {vs : List Byte} (hvs : ∀ v ∈ vs, len[v.toNat] ≠ 0) (k : Nat) {bits : List Bool}
    (hbits : bits <+: vs.flatMap (symbolBits (canonicalTable len)))
    (hlt : bits.length < (vs.flatMap (symbolBits (canonicalTable len))).length) :
    ∃ i, k ≤ i ∧ i < k + vs.length ∧
      walkSymbols (trieOf (canonicalTable len)) vs.length k bits = .error (.streamExhausted, i) := by
  induction vs generalizing k bits with
  | nil => simp at hlt
  | cons v vs ih =>
    rw [List.forall_mem_cons] at hvs
    rw [List.flatMap_cons] at hbits hlt
    rw [List.length_cons, walkSymbols]
    by_cases hcode : symbolBits (canonicalTable len) v <+: bits
    · obtain ⟨rest, rfl⟩ := hcode
      rw [List.prefix_append_right_inj] at hbits
      obtain ⟨i, hle, hi, hwalk⟩ := ih hvs.2 (k + 1) hbits (by simpa using hlt)
      refine ⟨i, by omega, by omega, ?_⟩
      rw [walkSymbol_symbolBits hk hvs.1]
      simp only [hwalk]
    · have hpre : bits <+: symbolBits (canonicalTable len) v :=
        (List.prefix_or_prefix_of_prefix hbits (List.prefix_append _ _)).resolve_right hcode
      refine ⟨k, Nat.le_refl k, by omega, ?_⟩
      rw [walkSymbol_cut hk hvs.1 hpre fun e => hcode (e ▸ List.prefix_rfl)]

end

/-! ## The payload of a channel -/

section
variable {d : Dims} {c : Nat} {m : Memory}

theorem channelPayload_bits :
    ∃ p, p < 8 ∧ (channelPayload d c m).flatMap byteBits =
      (channelResiduals d c m).flatMap (symbolBits (canonicalTable (channelLengths d c m))) ++ List.replicate p false :=
  flatMap_byteBits_bytesOfBits _

/-- A channel of at least one sample has at least one payload byte. -/
theorem channelPayload_pos (hn : d.n < 2 ^ 64) (hpos : 0 < d.n) : 0 < (channelPayload d c m).length := by
  have hlen : (channelResiduals d c m).length = d.n := channelResiduals_length d c m
  obtain ⟨v, vs, hvs⟩ := List.exists_cons_of_length_pos (hlen ▸ hpos)
  have hv := channelLengths_ne_zero hn (hvs ▸ List.mem_cons_self : v ∈ channelResiduals d c m)
  have hcode := length_toNat_ne_zero hv
  rw [channelPayload, bytesOfBits_length, hvs, List.flatMap_cons, List.length_append, symbolBits_length, canonicalTable_len]
  omega

/-- The payload decodes to the residuals (rule R185). -/
theorem walkSymbols_channelPayload (hn : d.n < 2 ^ 64) :
    ∃ rest, walkSymbols (trieOf (canonicalTable (channelLengths d c m))) d.n 0 ((channelPayload d c m).flatMap byteBits) =
      .ok (channelResiduals d c m, rest) := by
  obtain ⟨p, -, hbits⟩ := channelPayload_bits (d := d) (c := c) (m := m)
  have hwalk := walkSymbols_flatMap (channelLengths_kraftValid d c m) (fun v hv => channelLengths_ne_zero hn hv) 0
    (List.replicate p false)
  rw [channelResiduals_length, ← hbits] at hwalk
  exact ⟨_, hwalk⟩

/-- The payload without its last byte runs out of bits at one of the symbols. -/
theorem walkSymbols_channelPayload_cut (hn : d.n < 2 ^ 64) (hpos : 0 < d.n) :
    ∃ i, i < d.n ∧ walkSymbols (trieOf (canonicalTable (channelLengths d c m))) d.n 0
      (((channelPayload d c m).take ((channelPayload d c m).length - 1)).flatMap byteBits) = .error (.streamExhausted, i) := by
  obtain ⟨p, hp, hbits⟩ := channelPayload_bits (d := d) (c := c) (m := m)
  have hbyte := channelPayload_pos hn hpos (c := c) (m := m)
  have htotal := congrArg List.length hbits
  rw [length_flatMap_byteBits, List.length_append, List.length_replicate] at htotal
  have hcut : (((channelPayload d c m).take ((channelPayload d c m).length - 1)).flatMap byteBits).length =
      8 * ((channelPayload d c m).length - 1) := by
    rw [length_flatMap_byteBits, List.length_take, Nat.min_eq_left (Nat.sub_le _ _)]
  have hpre : ((channelPayload d c m).take ((channelPayload d c m).length - 1)).flatMap byteBits <+:
      (channelResiduals d c m).flatMap (symbolBits (canonicalTable (channelLengths d c m))) := by
    refine List.prefix_of_prefix_length_le (l₃ := (channelPayload d c m).flatMap byteBits) ?_ ?_ (by omega)
    · exact (List.take_prefix _ _).flatMap byteBits
    · rw [hbits]
      exact List.prefix_append _ _
  obtain ⟨i, -, hi, hwalk⟩ := walkSymbols_cut (channelLengths_kraftValid d c m)
    (fun v hv => channelLengths_ne_zero hn hv) 0 hpre (by omega)
  rw [channelResiduals_length] at hi hwalk
  exact ⟨i, by omega, hwalk⟩

end

end Sys2Proof.Machine
end

section
/-! SUPPORT. Containers that `COMPRESS` made (rules R210, R213): what a block reads that holds their bytes, whole or cut. -/

namespace Sys2Proof.Machine

/-! ## What a completed `COMPRESS` has checked -/

/-- The checks of a channel's stages but for its room in the container (rules R80, R162, R195, R202). -/
structure ChannelFits (p : Params) (d : Dims) (c : Nat) (m : Memory) : Prop where
  res : overCap p.resCap d.n = false
  pay : (channelPayload d c m).length ≤ payLimit p.payCap
  count : (channelPayload d c m).length < 2 ^ 32

theorem ChannelFits.payCap {p : Params} {d : Dims} {c : Nat} {m : Memory} (h : ChannelFits p d c m) :
    overCap p.payCap (channelPayload d c m).length = false := (le_payLimit_iff.1 h.pay).1

theorem fieldFault_eq_none {cap : Option Nat} {ns : List Nat} {off : Nat} (h : fieldFault cap off ns = none)
    (hoff : overCap cap off = false) : overCap cap (off + ns.sum) = false := by
  induction ns generalizing off with
  | nil => exact hoff
  | cons n ns ih =>
    rw [fieldFault_cons, ite_some_eq_none_iff, Bool.not_eq_true] at h
    rw [List.sum_cons, ← Nat.add_assoc]
    exact ih h.2 h.1

theorem channelsFault_eq_none {s : State} {cs : List Nat} {off : Nat} (h : channelsFault s cs off = none)
    (hoff : overCap s.cfg.contCap off = false) :
    (∀ c ∈ cs, ChannelFits s.cfg s.desc.dims c s.img) ∧
      overCap s.cfg.contCap (off + (cs.flatMap fun c => channelRecord s.desc.dims c s.img).length) = false := by
  induction cs generalizing off with
  | nil => exact ⟨nofun, hoff⟩
  | cons c cs ih =>
    rw [channelsFault_cons, Option.or_eq_none_iff, Option.map_eq_none_iff] at h
    obtain ⟨hres, hpay, hcount, hfields⟩ := channelFault_eq_none h.1
    have hend := fieldFault_eq_none hfields hoff
    have hsum : off + [256, 4, (channelPayload s.desc.dims c s.img).length].sum =
        off + 260 + (channelPayload s.desc.dims c s.img).length := by
      simp only [List.sum_cons, List.sum_nil]
      omega
    obtain ⟨hall, htotal⟩ := ih h.2 (hsum ▸ hend)
    refine ⟨List.forall_mem_cons.2 ⟨⟨hres, hpay, hcount⟩, hall⟩, ?_⟩
    rwa [List.flatMap_cons, List.length_append, channelRecord_length, ← Nat.add_assoc, ← Nat.add_assoc]

/-- What `COMPRESS` has checked when it ends in DONE, and what it leaves (rule R203). -/
structure Compressed (s t : State) : Prop where
  valid : imageFault s = none
  fits : ∀ c ∈ List.range s.desc.channels.toNat, ChannelFits s.cfg s.desc.dims c s.img
  room : overCap s.cfg.contCap (imageContainer s).length = false
  contLen : t.contLen.toNat = (imageContainer s).length
  cont : t.cont = s.cont.writeBytes 0 (imageContainer s)
  cpos : t.cpos = t.contLen

theorem overCap_zero (cap : Option Nat) : overCap cap 0 = false := by
  cases cap <;> simp

theorem compressFault_eq_none {s : State} (h : compressFault s = none) :
    imageFault s = none ∧ fieldFault s.cfg.contCap 0 headerFields = none ∧
      channelsFault s (List.range s.desc.channels.toNat) 14 = none := by
  have himg : imageFault s = none := by
    rw [compressFault] at h
    cases hf : imageFault s with
    | none => rfl
    | some f => rw [hf] at h; cases h
  rw [compressFault_eq himg, Option.or_eq_none_iff, Option.map_eq_none_iff] at h
  exact ⟨himg, h⟩

theorem compressed_of_exec {s t : State} (h : exec .compress s = .next t) (hdone : t.status = .done) :
    compressFault s = none ∧ Compressed s t := by
  cases hf : compressFault s with
  | some e =>
    rw [exec_compress_error hf] at h
    obtain rfl := Host.Outcome.next.inj h
    rw [raise_status] at hdone
    cases hdone
  | none =>
    obtain ⟨himg, hfields, hchannels⟩ := compressFault_eq_none hf
    obtain ⟨u, hu, hw⟩ := exec_compress_ok hf
    rw [hu] at h
    obtain rfl := Host.Outcome.next.inj h
    obtain ⟨hfits, hroom⟩ := channelsFault_eq_none hchannels (fieldFault_eq_none hfields (overCap_zero _))
    refine ⟨rfl, himg, hfits, ?_, hw.cpos, hw.cont, rfl⟩
    rwa [imageContainer, List.length_append]

/-! ## A block that holds the bytes of a container -/

/-- Cells that agree with written bytes hold them. -/
theorem readBytes_of_agree {m m' : Memory} {front back : List Byte}
    (h : ∀ a, a < front.length → m'.read a = (m.writeBytes 0 (front ++ back)).read a) :
    m'.readBytes 0 front.length = front := by
  have hall := (Memory.readBytes_eq_append_iff _ _ _ _).1 (m.readBytes_writeBytes 0 (front ++ back))
  exact (Memory.readBytes_congr fun a _ ha => h a (by omega)).trans hall.1

section
variable {s r : State}

/-- The header of an image, read back (rules R101, R197). -/
theorem header_of_imageHeader (hbytes : r.cont.readBytes 0 14 = imageHeader s) :
    r.cont.readBytes 0 3 = [s.cfg.magic0, s.cfg.magic1, s.cfg.magic2] ∧ headerWidth r = s.desc.width.toNat ∧
      headerHeight r = s.desc.height.toNat ∧ headerMaxval r = s.desc.maxval.toNat ∧
      r.cont.read 13 = s.desc.channels := by
  have hsplit : r.cont.readBytes 0 (imageHeader s).length = imageHeader s := hbytes
  rw [imageHeader, Memory.readBytes_eq_append_iff, Memory.readBytes_eq_append_iff, Memory.readBytes_eq_append_iff,
    Memory.readBytes_eq_append_iff] at hsplit
  simp only [List.length_append, le32_length, le16_length, List.length_cons, List.length_nil, Nat.reduceAdd,
    Nat.zero_add] at hsplit
  obtain ⟨⟨⟨⟨hmagic, hw⟩, hh⟩, hm⟩, hc⟩ := hsplit
  obtain ⟨hw', hh', hm', -⟩ := uLE_header r
  rw [hw, uLE_le32] at hw'
  rw [hh, uLE_le32] at hh'
  rw [hm, uLE_le16] at hm'
  exact ⟨hmagic, hw'.symm, hh'.symm, hm'.symm, List.head_eq_of_cons_eq hc⟩

theorem headerDesc_of_imageHeader (hvalid : imageFault s = none) (hbytes : r.cont.readBytes 0 14 = imageHeader s) :
    headerDesc r = s.desc := by
  obtain ⟨hdepth, -⟩ := imageFault_eq_none hvalid
  obtain ⟨-, hw, hh, hm, hc⟩ := header_of_imageHeader hbytes
  have h8 : (8 : BitVec 8) = s.desc.depth := BitVec.eq_of_toNat_eq hdepth.symm
  rw [headerDesc, hw, hh, hm, hc, h8]
  simp only [BitVec.ofNat_toNat, BitVec.setWidth_eq]

theorem headerFault_of_imageHeader (hvalid : imageFault s = none) (hcfg : r.cfg = s.cfg)
    (hcap : overCap s.cfg.contCap r.contLen.toNat = false) (hlen : 14 ≤ r.contLen.toNat)
    (hbytes : r.cont.readBytes 0 14 = imageHeader s) : headerFault r = none := by
  obtain ⟨-, hchannels, hwidth, hheight, himg⟩ := imageFault_eq_none hvalid
  obtain ⟨hmagic, hw, hh, -, hc⟩ := header_of_imageHeader hbytes
  have hmagic' := mt (magic_ne_iff r).2 (not_not.2 (hcfg ▸ hmagic))
  have hc' : headerChannels r = s.desc.channels.toNat := congrArg BitVec.toNat hc
  rw [hcfg] at hmagic'
  simp only [headerFault, ite_some_eq_none_iff, hmagic', hw, hh, hc', hcfg, hcap, himg]
  exact ⟨Bool.false_ne_true, by omega, not_false, by omega, by omega, by omega, by omega, hwidth, hheight, by omega,
    Bool.false_ne_true, trivial⟩

/-! ## Records read back -/

theorem lengthBank_toList (v : Vector (BitVec 8) 256) : lengthBank v.toList = v := by
  refine Vector.ext fun i hi => ?_
  simp [lengthBank]

/-- The fields of a record, read back (rules R102, R199). -/
theorem record_of_channelRecord {d : Dims} {c : Nat} {m : Memory} {off : Nat} {mem : Memory}
    (hcount : (channelPayload d c m).length < 2 ^ 32)
    (hbytes : mem.readBytes off (channelRecord d c m).length = channelRecord d c m) :
    recordLengths mem off = channelLengths d c m ∧ payloadCount mem off = (channelPayload d c m).length ∧
      mem.readBytes (off + 260) (channelPayload d c m).length = channelPayload d c m := by
  rw [channelRecord, Memory.readBytes_eq_append_iff, Memory.readBytes_eq_append_iff] at hbytes
  simp only [List.length_append, le32_length, Vector.length_toList, Nat.reduceAdd] at hbytes
  obtain ⟨⟨hlens, hcnt⟩, hpay⟩ := hbytes
  refine ⟨?_, ?_, hpay⟩
  · rw [recordLengths, hlens, lengthBank_toList]
  · rw [payloadCount, hcnt, uLE_le32]
    exact Nat.mod_eq_of_lt hcount

/-- A whole record of a channel decodes to the channel's residuals (rules R185, R208). -/
theorem recordAt_channelRecord {d : Dims} (hn : d.n < 2 ^ 64) {c : Nat} {m : Memory} (hfits : ChannelFits r.cfg d c m)
    {off : Nat} (hlen : off + (channelRecord d c m).length ≤ r.contLen.toNat)
    (hbytes : r.cont.readBytes off (channelRecord d c m).length = channelRecord d c m) :
    recordAt r d.n off = .ok (channelResiduals d c m, off + (channelRecord d c m).length) := by
  obtain ⟨hlens, hcount, hpay⟩ := record_of_channelRecord hfits.count hbytes
  rw [channelRecord_length, ← Nat.add_assoc] at hlen ⊢
  have hf : readFault r off = none := readFault_eq_none_iff.2 (by rw [hcount]; exact ⟨hlen, hfits.payCap⟩)
  obtain ⟨rest, hwalk⟩ := walkSymbols_channelPayload (d := d) (c := c) (m := m) hn
  have hwalk' : recordWalk r.cont d.n off = .ok (channelResiduals d c m, rest) := by
    rw [recordWalk, recordBits, hlens, hcount, hpay, hwalk]
  rw [recordAt_whole hf, hlens, if_neg (Nat.not_lt.2 (channelLengths_kraftValid d c m)), hfits.res,
    if_neg Bool.false_ne_true, hwalk', hcount]
  rfl

/-- Whole records of channels decode to the channels' residuals. -/
theorem recordsAt_channelRecords {d : Dims} (hn : d.n < 2 ^ 64) {m : Memory} {cs : List Nat}
    (hfits : ∀ c ∈ cs, ChannelFits r.cfg d c m) {off : Nat}
    (hlen : off + (cs.flatMap fun c => channelRecord d c m).length ≤ r.contLen.toNat)
    (hbytes : r.cont.readBytes off (cs.flatMap fun c => channelRecord d c m).length =
      cs.flatMap fun c => channelRecord d c m) :
    recordsAt r d.n cs off =
      .ok (cs.map fun c => channelResiduals d c m, off + (cs.flatMap fun c => channelRecord d c m).length) := by
  induction cs generalizing off with
  | nil => rfl
  | cons c cs ih =>
    rw [List.flatMap_cons, Memory.readBytes_eq_append_iff] at hbytes
    rw [List.flatMap_cons, List.length_append, ← Nat.add_assoc] at hlen ⊢
    rw [List.forall_mem_cons] at hfits
    rw [recordsAt_cons_ok (recordAt_channelRecord hn hfits.1 (by omega) hbytes.1), ih hfits.2 hlen hbytes.2]
    rfl

/-- Behind records that decode, a record that fails a check is the first to fail. -/
theorem recordsAt_concat_error {n : Nat} {cs : List Nat} {off off' : Nat} {rss : List (List Byte)}
    (hcs : recordsAt r n cs off = .ok (rss, off')) {f : Cause × Nat} (hc : recordAt r n off' = .error f) (c : Nat) :
    recordsAt r n (cs ++ [c]) off = .error ⟨f.1, f.2, BitVec.ofNat 2 c⟩ := by
  induction cs generalizing off rss with
  | nil =>
    obtain ⟨rfl, rfl⟩ := Prod.mk.inj (Except.ok.inj hcs)
    exact recordsAt_cons_error hc []
  | cons e cs ih =>
    cases he : recordAt r n off with
    | error g => rw [recordsAt_cons_error he] at hcs; cases hcs
    | ok p =>
      rw [recordsAt_cons_ok he] at hcs
      cases hrest : recordsAt r n cs p.2 with
      | error g => rw [hrest] at hcs; cases hcs
      | ok q =>
        rw [hrest] at hcs
        obtain ⟨rfl, rfl⟩ := Prod.mk.inj (Except.ok.inj hcs)
        rw [List.cons_append, recordsAt_cons_ok he, ih hrest]
        rfl

end

/-! ## The samples read back -/

/-- The inverse filter on a channel's residuals gives the channel's samples (rule R122). -/
theorem invRow_channelResiduals {d : Dims} {y x : Nat} (hy : y < d.h) (hx : x < d.w) (c : Nat) (m : Memory) :
    (invRow ((residualMemory (channelResiduals d c m)).readBytes (y * d.w) d.w)).getD x 0 = m.read (d.sample c y x) := by
  have hrow : (residualMemory (channelResiduals d c m)).readBytes (y * d.w) d.w = fwdRow (imageRow d c y m) := by
    rw [fwdRow_imageRow, Memory.readBytes]
    refine List.map_congr_left fun k hk => ?_
    have hi := rowIndex_lt hy (List.mem_range.1 hk)
    rw [residualMemory_read (by rw [channelResiduals_length, Dims.n, Nat.mul_comm d.w]; exact hi), channelResiduals_eq_map]
    simp [hi]
  rw [hrow, invRow, fwdRow, invFrom_fwdFrom]
  simp [imageRow, hx]

/-- Every cell of the image is a sample of one of its channels (rule R68). -/
theorem exists_sample {d : Dims} {a : Nat} (ha : a < d.w * d.h * d.c) :
    ∃ c y x, c < d.c ∧ y < d.h ∧ x < d.w ∧ a = d.sample c y x := by
  have hc : 0 < d.c := Nat.pos_of_ne_zero fun h0 => by simp [h0] at ha
  have hw : 0 < d.w := Nat.pos_of_ne_zero fun h0 => by simp [h0] at ha
  refine ⟨a % d.c, a / d.c / d.w, a / d.c % d.w, Nat.mod_lt _ hc, ?_, Nat.mod_lt _ hw, ?_⟩
  · rw [Nat.div_lt_iff_lt_mul hw, Nat.div_lt_iff_lt_mul hc, Nat.mul_comm d.h]
    exact ha
  · rw [Dims.sample, Nat.div_add_mod', Nat.div_add_mod']

/-! ## The round trip -/

section
variable {s t r : State}

/-- A block that holds a beginning of a container holds the fields it is made of. -/
theorem Compressed.readBytes_front (h : Compressed s t) {front back : List Byte} (hsplit : imageContainer s = front ++ back)
    (hagree : ∀ a, a < front.length → r.cont.read a = t.cont.read a) : r.cont.readBytes 0 front.length = front := by
  refine readBytes_of_agree (m := s.cont) (back := back) fun a ha => ?_
  rw [hagree a ha, h.cont, hsplit]

/-- A block that holds the header and the first records of a container reads them (rules R197, R208). -/
theorem Compressed.read_records (h : Compressed s t) (hcfg : r.cfg = s.cfg)
    (hcap : overCap s.cfg.contCap r.contLen.toNat = false) {cs : List Nat} (hcs : ∀ c ∈ cs, c < s.desc.channels.toNat)
    (hlen : 14 + (cs.flatMap fun c => channelRecord s.desc.dims c s.img).length ≤ r.contLen.toNat)
    (hbytes : r.cont.readBytes 0 (imageHeader s ++ cs.flatMap fun c => channelRecord s.desc.dims c s.img).length =
      imageHeader s ++ cs.flatMap fun c => channelRecord s.desc.dims c s.img) :
    headerFault r = none ∧ headerDesc r = s.desc ∧
      recordsAt r s.desc.dims.n cs 14 = .ok (cs.map fun c => channelResiduals s.desc.dims c s.img,
        14 + (cs.flatMap fun c => channelRecord s.desc.dims c s.img).length) := by
  rw [Memory.readBytes_eq_append_iff] at hbytes
  obtain ⟨hheader, hrecords⟩ := hbytes
  refine ⟨headerFault_of_imageHeader h.valid hcfg hcap (by omega) hheader, headerDesc_of_imageHeader h.valid hheader,
    recordsAt_channelRecords (dims_n_lt _) (fun c hc => ?_) hlen ?_⟩
  · rw [hcfg]
    exact h.fits c (List.mem_range.2 (hcs c hc))
  · rwa [Nat.zero_add] at hrecords

theorem Compressed.overCap_of_le (h : Compressed s t) (hle : r.contLen.toNat ≤ t.contLen.toNat) :
    overCap s.cfg.contCap r.contLen.toNat = false :=
  overCap_mono (h.contLen ▸ hle) h.room

theorem containerRecords_of_desc {n C : Nat} {d : Desc} (hd : headerDesc r = d) (hn : d.dims.n = n) (hC : d.channels.toNat = C) :
    containerRecords r = recordsAt r n (List.range C) 14 := by
  rw [containerRecords_eq, hd, hn, ← hC]
  rfl

end

/-- Settles O55: the block reads the header and the records that `COMPRESS` wrote (`Compressed.read_records`), and the inverse
filter gives the samples back (`invRow_channelResiduals`). -/
theorem decompressInvertsCompress : Obligations.DecompressInvertsCompress := by
  intro s t r hexec hdone hcfg hlen hagree
  obtain ⟨-, hc⟩ := compressed_of_exec hexec hdone
  have htotal : (imageContainer s).length =
      14 + ((List.range s.desc.channels.toNat).flatMap fun c => channelRecord s.desc.dims c s.img).length :=
    List.length_append
  have hbytes := hc.readBytes_front (r := r) (List.append_nil _).symm fun a ha => hagree a (hc.contLen ▸ ha)
  have hrlen : r.contLen.toNat = t.contLen.toNat := congrArg BitVec.toNat hlen
  obtain ⟨hheader, hdesc, hrecords⟩ := hc.read_records hcfg (hc.overCap_of_le hrlen.le) (fun c => List.mem_range.1)
    (by rw [hrlen, hc.contLen, htotal]) hbytes
  rw [← containerRecords_of_desc hdesc rfl rfl, ← htotal] at hrecords
  obtain ⟨u, hu, hread⟩ := exec_decompress_ok hheader hrecords
  refine ⟨_, hu, rfl, hread.desc.trans hdesc, BitVec.eq_of_toNat_eq (hread.cpos.trans hc.contLen.symm), fun a ha => ?_⟩
  obtain ⟨c, y, x, hch, hy, hx, rfl⟩ := exists_sample (d := s.desc.dims) ha
  have hC : headerChannels r = s.desc.channels.toNat := congrArg (fun d => d.channels.toNat) hdesc
  have himg := hread.img
  rw [hC, hdesc] at himg
  obtain ⟨hfst, hlt, hmem⟩ := zip_range_channels (C := s.desc.channels.toNat)
    (rss := (List.range s.desc.channels.toNat).map fun c => channelResiduals s.desc.dims c s.img) (by simp)
  have hmem := hmem c hch
  have hchannel : ((List.range s.desc.channels.toNat).map fun c => channelResiduals s.desc.dims c s.img).getD c [] =
      channelResiduals s.desc.dims c s.img := by
    have hch : c < s.desc.channels.toNat := hch
    simp [hch]
  rw [hchannel] at hmem
  rw [complete_img, resetEphemeral_img, himg,
    imageWrites_read (by rw [hfst]; exact List.nodup_range) hlt hmem hy hx, invRow_channelResiduals hy hx]

end Sys2Proof.Machine
end

section
/-! SUPPORT. Corrupted containers (rule R213): a container whose last record is cut is refused at that record. -/

namespace Sys2Proof.Machine

/-! ## The magic -/

theorem headerFault_badMagic {r : State} (hcap : overCap r.cfg.contCap r.contLen.toNat = false) (hlen : 3 ≤ r.contLen.toNat)
    (h : r.cont.read 0 ≠ r.cfg.magic0 ∨ r.cont.read 1 ≠ r.cfg.magic1 ∨ r.cont.read 2 ≠ r.cfg.magic2) :
    headerFault r = some (.badMagic, 0) := by
  have hlen : ¬ r.contLen.toNat < 3 := Nat.not_lt.2 hlen
  simp only [headerFault, hcap, Bool.false_eq_true, if_false, if_neg hlen, if_pos h]

/-! ## The last record -/

/-- The channel whose record is the last of a container. -/
def lastChannel (s : State) : Nat := s.desc.channels.toNat - 1

/-- The container of an image but for its last record. -/
def containerFront (s : State) : List Byte :=
  imageHeader s ++ (List.range (lastChannel s)).flatMap fun c => channelRecord s.desc.dims c s.img

theorem range_channels {s : State} (hvalid : imageFault s = none) :
    List.range s.desc.channels.toNat = List.range (lastChannel s) ++ [lastChannel s] := by
  obtain ⟨-, hc, -⟩ := imageFault_eq_none hvalid
  rw [lastChannel, ← List.range_succ]
  congr 1
  omega

theorem imageContainer_eq_front {s : State} (hvalid : imageFault s = none) :
    imageContainer s = containerFront s ++ channelRecord s.desc.dims (lastChannel s) s.img := by
  have hc : s.desc.dims.c = s.desc.channels.toNat := rfl
  rw [imageContainer, hc, range_channels hvalid, List.flatMap_append, List.flatMap_singleton, ← List.append_assoc, containerFront]

section
variable {s t r : State} (h : Compressed s t)
include h

theorem Compressed.contLen_front : t.contLen.toNat =
    (containerFront s).length + 260 + (channelPayload s.desc.dims (lastChannel s) s.img).length := by
  rw [h.contLen, imageContainer_eq_front h.valid, List.length_append, channelRecord_length, Nat.add_assoc]

theorem Compressed.fits_last : ChannelFits s.cfg s.desc.dims (lastChannel s) s.img :=
  h.fits _ (by rw [range_channels h.valid]; simp)

/-- The fields of the last record of a container. -/
theorem Compressed.lastRecord :
    recordLengths t.cont (containerFront s).length = channelLengths s.desc.dims (lastChannel s) s.img ∧
      payloadCount t.cont (containerFront s).length = (channelPayload s.desc.dims (lastChannel s) s.img).length ∧
      t.cont.readBytes ((containerFront s).length + 260) (channelPayload s.desc.dims (lastChannel s) s.img).length =
        channelPayload s.desc.dims (lastChannel s) s.img := by
  have hbytes := h.readBytes_front (r := t) (List.append_nil _).symm fun a _ => rfl
  rw [imageContainer_eq_front h.valid, Memory.readBytes_eq_append_iff, Nat.zero_add] at hbytes
  exact record_of_channelRecord h.fits_last.count hbytes.2

theorem Compressed.lastPayload_pos : 0 < (channelPayload s.desc.dims (lastChannel s) s.img).length := by
  obtain ⟨-, -, hw, hh, -⟩ := imageFault_eq_none h.valid
  exact channelPayload_pos (dims_n_lt _) (Nat.mul_pos (Nat.pos_of_ne_zero hw) (Nat.pos_of_ne_zero hh))

/-- A block that holds a container up to its last record refuses it when that record fails a check. -/
theorem Compressed.exec_decompress_last (hcfg : r.cfg = s.cfg) (hle : r.contLen.toNat ≤ t.contLen.toNat)
    (hlen : (containerFront s).length ≤ r.contLen.toNat)
    (hagree : ∀ a, a < (containerFront s).length → r.cont.read a = t.cont.read a) {k : Cause}
    {p : Nat} (hf : recordAt r s.desc.dims.n (containerFront s).length = .error (k, p)) :
    exec .decompress r = .next (raise .iw ⟨k, p, BitVec.ofNat 2 (lastChannel s)⟩ r) := by
  have hfront : (containerFront s).length =
      14 + ((List.range (lastChannel s)).flatMap fun c => channelRecord s.desc.dims c s.img).length := List.length_append
  have hlt : ∀ c ∈ List.range (lastChannel s), c < s.desc.channels.toNat := fun c hc => by
    have := List.mem_range.1 hc
    rw [lastChannel] at this
    omega
  obtain ⟨hheader, hdesc, hrecords⟩ := h.read_records hcfg (h.overCap_of_le hle) hlt (hfront ▸ hlen)
    (h.readBytes_front (imageContainer_eq_front h.valid) hagree)
  rw [← hfront] at hrecords
  refine exec_decompress_record hheader ?_
  rw [containerRecords_of_desc hdesc rfl rfl, range_channels h.valid]
  exact recordsAt_concat_error hrecords hf _

/-- A container that lost its last byte: the last payload is cut (rule R213). -/
theorem Compressed.recordAt_lostByte (hlen : r.contLen.toNat + 1 = t.contLen.toNat)
    (hagree : ∀ a, a < r.contLen.toNat → r.cont.read a = t.cont.read a) :
    recordAt r s.desc.dims.n (containerFront s).length = .error (.payload, (containerFront s).length + 260) := by
  obtain ⟨-, hcount, -⟩ := h.lastRecord
  have htotal := h.contLen_front
  have hpos := h.lastPayload_pos
  have hcount' : payloadCount r.cont (containerFront s).length =
      (channelPayload s.desc.dims (lastChannel s) s.img).length := by
    rw [← hcount, payloadCount, payloadCount, Memory.readBytes_congr fun a _ ha => hagree a (by omega)]
  refine recordAt_cut ?_
  rw [readFault, if_neg (by omega), if_neg (by omega), if_pos (by omega)]

/-- A container whose last payload and its count are shorter by one: the payload runs out of bits (rule R213). -/
theorem Compressed.recordAt_shortPayload (hcfg : r.cfg = s.cfg) (hlen : r.contLen.toNat + 1 = t.contLen.toNat)
    (hagree : ∀ a, a < r.contLen.toNat → a < (containerFront s).length + 256 ∨ (containerFront s).length + 260 ≤ a →
      r.cont.read a = t.cont.read a)
    (hcount : payloadCount r.cont (containerFront s).length + 1 =
      (channelPayload s.desc.dims (lastChannel s) s.img).length) :
    ∃ i, i < s.desc.dims.n ∧
      recordAt r s.desc.dims.n (containerFront s).length = .error (.streamExhausted, i) := by
  obtain ⟨hlens, -, hpayload⟩ := h.lastRecord
  have htotal := h.contLen_front
  have hfits := h.fits_last
  obtain ⟨-, -, hw, hh, -⟩ := imageFault_eq_none h.valid
  obtain ⟨i, hi, hwalk⟩ := walkSymbols_channelPayload_cut (d := s.desc.dims) (c := lastChannel s) (m := s.img) (dims_n_lt _)
    (Nat.mul_pos (Nat.pos_of_ne_zero hw) (Nat.pos_of_ne_zero hh))
  have hlens' : recordLengths r.cont (containerFront s).length = channelLengths s.desc.dims (lastChannel s) s.img := by
    rw [← hlens, recordLengths, recordLengths,
      Memory.readBytes_congr fun a _ ha => hagree a (by omega) (.inl (by omega))]
  have hbits : recordBits r.cont (containerFront s).length =
      ((channelPayload s.desc.dims (lastChannel s) s.img).take
        ((channelPayload s.desc.dims (lastChannel s) s.img).length - 1)).flatMap byteBits := by
    rw [recordBits, show (channelPayload s.desc.dims (lastChannel s) s.img).length - 1 =
      payloadCount r.cont (containerFront s).length by omega]
    conv_rhs => rw [← hpayload, ← hcount]
    rw [Memory.readBytes_succ, List.take_left' (Memory.readBytes_length _ _ _),
      Memory.readBytes_congr fun a ha _ => hagree a (by omega) (.inr ha)]
  have hf : readFault r (containerFront s).length = none := readFault_eq_none_iff.2 ⟨by omega, by
    rw [hcfg]
    exact overCap_mono (by omega) hfits.payCap⟩
  refine ⟨i, hi, ?_⟩
  rw [recordAt_whole hf, hlens', if_neg (Nat.not_lt.2 (channelLengths_kraftValid _ _ _)), hcfg, hfits.res,
    if_neg Bool.false_ne_true, recordWalk, hlens', hbits, hwalk]
  rfl

end

/-- Settles O56: a wrong magic fails in the header; the other two fail in the last record (`Compressed.recordAt_lostByte`,
`Compressed.recordAt_shortPayload`). -/
theorem corruptContainersAreRejected : Obligations.CorruptContainersAreRejected := by
  refine ⟨fun r hcap hlen hmagic => ?_, ?_⟩
  · rw [exec_decompress_header (headerFault_badMagic hcap hlen hmagic)]
  intro s t r hexec hdone hcfg hlen last off
  obtain ⟨-, h⟩ := compressed_of_exec hexec hdone
  have htotal := h.contLen_front
  have hpos := h.lastPayload_pos
  have hoff : off = (containerFront s).length + 260 := by
    have : off = t.contLen.toNat - (channelPayload s.desc.dims (lastChannel s) s.img).length := rfl
    omega
  have hlast : last = lastChannel s := rfl
  rw [hoff, hlast]
  refine ⟨fun hagree => ?_, fun hagree hcount => ?_⟩
  · rw [h.exec_decompress_last hcfg (by omega) (by omega) (fun a ha => hagree a (by omega))
      (h.recordAt_lostByte hlen hagree)]
  · obtain ⟨i, hi, hrecord⟩ := h.recordAt_shortPayload hcfg hlen (fun a ha hout => hagree a ha (by omega)) hcount
    exact ⟨i, hi, h.exec_decompress_last hcfg (by omega) (by omega) (fun a ha => hagree a (by omega) (by omega)) hrecord⟩

end Sys2Proof.Machine
end

section
/-! SUPPORT. The unit commands on the compress side (rule R215): one after the other they do what `COMPRESS` does per channel. -/

namespace Sys2Proof.Machine

open Claims (Bank writtenBanks runCommands compressUnits)

/-! ## Commands in sequence -/

theorem runCommands_cons {i : Instr} {s t : State} (h : exec i s = .next t) (is : List Instr) :
    runCommands (i :: is) s = runCommands is t := by
  rw [runCommands, h]

theorem runCommands_append {is : List Instr} {s t : State} (h : runCommands is s = .next t) (js : List Instr) :
    runCommands (is ++ js) s = runCommands js t := by
  induction is generalizing s with
  | nil =>
    obtain rfl := Host.Outcome.next.inj h
    rfl
  | cons i is ih =>
    rw [List.cons_append, runCommands]
    rw [runCommands] at h
    cases hi : exec i s with
    | next u => rw [hi] at h; exact ih h
    | fault f => rw [hi] at h; cases h
    | refused r => rw [hi] at h; cases h

/-- What a command that completed leaves unchanged (rule R96). -/
theorem writes_of_done {i : Instr} {s t : State} (h : exec i s = .next t) (hdone : t.status = .done) :
    Writes (writtenBanks i) s t :=
  exec_writes i s t h (by rw [hdone]; decide)

/-- A command that writes neither the image nor the container leaves the container so far as it is. -/
theorem Wrote.command {s t u : State} {bs : List Byte} (h : Wrote s bs t) {i : Instr} (hexec : exec i t = .next u)
    (hdone : u.status = .done) (hbanks : ∀ b ∈ [Bank.desc, .img, .cont, .cpos], b ∉ writtenBanks i) : Wrote s bs u := by
  have hw := writes_of_done hexec hdone
  have hsame (b : Bank) (hb : b ∈ [Bank.desc, .img, .cont, .cpos]) : b.Same t u := hw.banks b (hbanks b hb)
  have hdesc : u.desc = t.desc := hsame .desc (by decide)
  have himg : u.img = t.img := hsame .img (by decide)
  have hcpos : u.cpos = t.cpos := hsame .cpos (by decide)
  obtain ⟨-, hcont⟩ := hsame .cont (by decide)
  obtain ⟨hcfg, -⟩ := hw.own
  exact ⟨hcfg.trans h.cfg, hdesc.trans h.desc, himg.trans h.img, hcont.trans h.cont, hcpos ▸ h.cpos⟩

/-! ## The codes of a channel -/

/-- The state in which a command with a channel operand begins (rule R41). -/
def selectChannel (c : Nat) (s : State) : State := { s with curch := (BitVec.ofNat 8 c).setWidth 2 }

theorem exec_filtFwd_channel {s : State} (hvalid : imageFault s = none) {c : Nat} (hc : c < s.desc.channels.toNat)
    (hres : overCap s.cfg.resCap s.desc.dims.n = false) :
    exec (.filtFwd (BitVec.ofNat 8 c)) s = .next (complete (filterForward s.desc.dims c (selectChannel c s))) := by
  have hn : s.desc.width.toNat * s.desc.height.toNat = s.desc.dims.n := rfl
  have hc' : (BitVec.ofNat 8 c).toNat = c := Nat.mod_eq_of_lt (hc.trans s.desc.channels.isLt)
  rw [exec_filtFwd_eq, hvalid, hc', hn]
  simp only [if_neg (Nat.not_le.2 hc), hres, Bool.false_eq_true, if_false, endCommand_ok, selectChannel]

theorem exec_hist {s : State} (hres : overCap s.cfg.resCap s.resN.toNat = false) :
    exec .hist s = .next (complete (histogram s)) := by
  rw [exec, execHist, histBody, checkRes_within hres]
  rfl

/-- `FILT.FWD c`, `HIST`, `HUFF`, `CANON` leave the residuals of channel `c` and their table in the banks. -/
theorem Wrote.codeUnits {s t : State} {bs : List Byte} (h : Wrote s bs t) (hvalid : imageFault s = none) {c : Nat}
    (hc : c < s.desc.channels.toNat) (hres : overCap s.cfg.resCap s.desc.dims.n = false) :
    ∃ u, runCommands [.filtFwd (BitVec.ofNat 8 c), .hist, .huff, .canon] t = .next u ∧ Wrote s bs u ∧
      Coded s.desc.dims c s.img u ∧ u.resN.toNat = s.desc.dims.n := by
  have hn := dims_n_lt s.desc
  have hfilt := exec_filtFwd_channel (s := t) (c := c) (by rwa [imageFault, h.cfg, h.desc]) (by rwa [h.desc])
    (by rwa [h.cfg, h.desc])
  have hw1 := h.command hfilt rfl (by simp [writtenBanks])
  have hresN := filterForward_resN hn c (selectChannel c t)
  have hbytes := filterForward_resBytes hn c (selectChannel c t)
  rw [h.desc] at hfilt hw1
  generalize hv : filterForward s.desc.dims c (selectChannel c t) = v at *
  have hhist := exec_hist (s := complete v) (by rwa [complete_resN, hresN, hw1.cfg])
  have hw2 := hw1.command hhist rfl (by decide)
  have hhuff := exec_huff (complete (histogram (complete v)))
  have hw3 := hw2.command hhuff rfl (by decide)
  have hlen : (complete (buildLengths (complete (histogram (complete v))))).len =
      channelLengths s.desc.dims c s.img := by
    have hvb : (complete v).resBytes = channelResiduals s.desc.dims c s.img := hbytes.trans (congrArg _ h.img)
    rw [complete_len, buildLengths_len, complete_freq, histogram_freq, hvb, channelLengths]
  have hcanon := exec_canon_of_kraftValid (hlen ▸ channelLengths_kraftValid s.desc.dims c s.img :
    KraftValid (complete (buildLengths (complete (histogram (complete v))))).len)
  have hw4 := hw3.command hcanon rfl (by decide)
  refine ⟨_, ?_, hw4, ⟨?_, congrArg canonicalTable hlen⟩, ?_⟩
  · rw [runCommands_cons hfilt, runCommands_cons hhist, runCommands_cons hhuff, runCommands_cons hcanon]
    rfl
  · have himg : (selectChannel c t).img = s.img := h.img
    rw [← himg, ← hbytes]
    simp [State.resBytes]
  · simpa using hresN

/-! ## The record of a channel -/

/-- The container so far, with `CONT_LEN` at its end, behind a command that completed. -/
structure Closed (s : State) (bs : List Byte) (t : State) : Prop extends Wrote s bs t where
  contLen : t.contLen = t.cpos
  status : t.status = .done

theorem Wrote.closed {s t : State} {bs : List Byte} (h : Wrote s bs t) : Closed s bs (complete (closeContainer t)) :=
  ⟨⟨h.cfg, h.desc, h.img, h.cont, h.cpos⟩, rfl, rfl⟩

/-- `PACK` and `CHN.WR` append the record of a coded channel (rules R167, R196). -/
theorem Wrote.recordUnits {s t : State} {bs : List Byte} (h : Wrote s bs t) {c : Nat} (hcoded : Coded s.desc.dims c s.img t)
    (hresN : t.resN.toNat = s.desc.dims.n) (hfits : ChannelFits s.cfg s.desc.dims c s.img)
    (hfields : fieldFault s.cfg.contCap bs.length [256, 4, (channelPayload s.desc.dims c s.img).length] = none)
    (hlt : bs.length + recordBound < 2 ^ 64) :
    ∃ u, runCommands [.pack, .chnWr] t = .next u ∧ Closed s (bs ++ channelRecord s.desc.dims c s.img) u := by
  have hbound := recordBound_eq
  have hcount := hfits.count
  obtain ⟨u, hu, hframe, hlen, hrecord⟩ := hcoded.packChannel_fits (dims_n_lt _) (h.cfg ▸ hfits.pay)
  have hpack : exec .pack t = .next (complete u) := by
    rw [exec_pack (by rw [h.cfg, hresN, hfits.res]), hu, endCommand_ok]
  have hw := h.command hpack rfl (by decide)
  have hlen' : (complete u).payLen.toNat = (channelPayload s.desc.dims c s.img).length := hlen
  have hrecord' : bankRecord (complete u) = channelRecord s.desc.dims c s.img := hrecord
  have hwrite : writeChannel (complete u) = .ok (Machine.appendBytes (channelRecord s.desc.dims c s.img) (complete u)) := by
    rw [writeChannel_eq (by omega) fun n hle _ => by rw [hw.cpos] at hle; omega, hrecord',
      fieldsOutcome_ok (by rwa [hw.cfg, hw.cpos, hlen'])]
  have hchn := exec_chnWr (s := complete u) (by rw [hw.cfg, hlen', hfits.payCap])
  rw [hwrite, ok_bind, endCommand_ok] at hchn
  have happ := hw.appendBytes (more := channelRecord s.desc.dims c s.img) (by rw [channelRecord_length]; omega)
  refine ⟨_, ?_, happ.closed⟩
  rw [runCommands_cons hpack, runCommands_cons hchn]
  rfl

/-- The unit commands of one channel append its record (rule R215). -/
theorem Wrote.channelUnits {s t : State} {bs : List Byte} (h : Wrote s bs t) (hvalid : imageFault s = none) {c : Nat}
    (hc : c < s.desc.channels.toNat) (hf : channelFault s c bs.length = none) (hlt : bs.length + recordBound < 2 ^ 64) :
    ∃ u, runCommands (compressUnits (BitVec.ofNat 8 c)) t = .next u ∧
      Closed s (bs ++ channelRecord s.desc.dims c s.img) u := by
  obtain ⟨hres, hpay, hcount, hfields⟩ := channelFault_eq_none hf
  obtain ⟨u, hu, hw, hcoded, hresN⟩ := h.codeUnits hvalid hc hres
  obtain ⟨v, hv, hclosed⟩ := hw.recordUnits hcoded hresN ⟨hres, hpay, hcount⟩ hfields hlt
  exact ⟨v, (runCommands_append hu _).trans hv, hclosed⟩

/-! ## All channels -/

theorem Closed.channelUnits {s t : State} {bs : List Byte} (h : Closed s bs t) (hvalid : imageFault s = none) {cs : List Nat}
    (hcs : ∀ c ∈ cs, c < s.desc.channels.toNat) (hf : channelsFault s cs bs.length = none)
    (hlt : bs.length + cs.length * recordBound < 2 ^ 64) :
    ∃ u, runCommands (cs.flatMap fun c => compressUnits (BitVec.ofNat 8 c)) t = .next u ∧
      Closed s (bs ++ cs.flatMap fun c => channelRecord s.desc.dims c s.img) u := by
  induction cs generalizing bs t with
  | nil => exact ⟨t, rfl, by rwa [List.flatMap_nil, List.append_nil]⟩
  | cons c cs ih =>
    have hbound := recordBound_eq
    rw [List.length_cons, Nat.succ_mul] at hlt
    rw [channelsFault_cons, Option.or_eq_none_iff, Option.map_eq_none_iff] at hf
    rw [List.forall_mem_cons] at hcs
    obtain ⟨-, -, hcount, -⟩ := channelFault_eq_none hf.1
    obtain ⟨u, hu, hclosed⟩ := h.toWrote.channelUnits hvalid hcs.1 hf.1 (by omega)
    have hlength : (bs ++ channelRecord s.desc.dims c s.img).length =
        bs.length + 260 + (channelPayload s.desc.dims c s.img).length := by
      rw [List.length_append, channelRecord_length, Nat.add_assoc]
    obtain ⟨v, hv, hrest⟩ := ih hclosed hcs.2 (by rw [hlength]; exact hf.2) (by omega)
    rw [List.append_assoc] at hrest
    exact ⟨v, by rw [List.flatMap_cons, runCommands_append hu, hv], by rwa [List.flatMap_cons]⟩

/-- `HDR.WR` starts the container with the header (rule R194). -/
theorem hdrWr_closed {s : State} (hvalid : imageFault s = none) (hfields : fieldFault s.cfg.contCap 0 headerFields = none) :
    ∃ u, exec .hdrWr s = .next u ∧ Closed s (imageHeader s) u := by
  have hstart : Wrote s [] (setCpos 0 s) := ⟨rfl, rfl, rfl, rfl, rfl⟩
  have hheader := hstart.appendBytes (more := imageHeader s) (by simp)
  refine ⟨_, ?_, hheader.closed⟩
  rw [exec_hdrWr hvalid, writeHeader_eq, fieldsOutcome_ok (s := setCpos 0 s) hfields, ok_bind, endCommand_ok]

/-- Settles O57: no check of `COMPRESS` failed (`compressFault_eq_none`), so `HDR.WR` writes the header and the units of each
channel append its record (`Closed.channelUnits`): the same bytes as in the container of `COMPRESS`. -/
theorem unitCommandsCompressAlike : Obligations.UnitCommandsCompressAlike := by
  intro s t hexec hdone
  obtain ⟨hf, hcomp⟩ := compressed_of_exec hexec hdone
  obtain ⟨hvalid, hfields, hchannels⟩ := compressFault_eq_none hf
  obtain ⟨v, hv, hheader⟩ := hdrWr_closed hvalid hfields
  obtain ⟨u, hu, hclosed⟩ := hheader.channelUnits hvalid (fun c => List.mem_range.1) hchannels (by
    have := s.desc.channels.isLt
    rw [imageHeader_length, List.length_range, recordBound_eq]
    omega)
  have hcpos : u.cpos = t.cpos := BitVec.eq_of_toNat_eq (by rw [hclosed.cpos, hcomp.cpos, hcomp.contLen]; rfl)
  have hcont : u.cont = t.cont := by rw [hclosed.cont, hcomp.cont]; rfl
  refine ⟨u, by rw [runCommands_cons hv, hu], hclosed.status, ?_, hcpos, fun a _ => by rw [hcont]⟩
  rw [hclosed.contLen, hcpos, hcomp.cpos]

end Sys2Proof.Machine
end

section
/-! SUPPORT. The unit commands on the decompress side (rule R215): one after the other, with the host's write of `RES_N`, they do
what `DECOMPRESS` does per channel. -/

namespace Sys2Proof.Machine

open Claims (runCommands decompressUnits decompressChannels)

/-! ## What a completed `DECOMPRESS` has read -/

/-- A `DECOMPRESS` that ends in DONE has read a valid header and records that decode (rule R209). -/
theorem decompressed_of_exec {s t : State} (h : exec .decompress s = .next t) (hdone : t.status = .done) :
    headerFault s = none ∧ ∃ rss off, containerRecords s = .ok (rss, off) ∧ t.desc = headerDesc s ∧ t.cpos.toNat = off ∧
      t.img = s.img.writeAll (imageWrites (headerDesc s).dims ((List.range (headerChannels s)).zip rss)) := by
  have hno (e : Raise) (he : exec .decompress s = .next (raise .iw e s)) : False := by
    rw [he] at h
    obtain rfl := Host.Outcome.next.inj h
    rw [raise_status] at hdone
    cases hdone
  cases hh : headerFault s with
  | some f => exact (hno _ (exec_decompress_header hh)).elim
  | none =>
    cases hr : containerRecords s with
    | error e => exact (hno _ (exec_decompress_record hh hr)).elim
    | ok p =>
      obtain ⟨u, hu, hread⟩ := exec_decompress_ok hh (rss := p.1) (off := p.2) hr
      rw [hu] at h
      obtain rfl := Host.Outcome.next.inj h
      exact ⟨rfl, p.1, p.2, rfl, hread.desc, hread.cpos, hread.img⟩

theorem headerDesc_fields (s : State) :
    (headerDesc s).width.toNat = headerWidth s ∧ (headerDesc s).height.toNat = headerHeight s ∧
      (headerDesc s).channels.toNat = headerChannels s :=
  ⟨congrArg Dims.w (headerDesc_dims s), congrArg Dims.h (headerDesc_dims s), congrArg Dims.c (headerDesc_dims s)⟩

/-- The descriptor of a valid header is valid (rules R62, R197). -/
theorem imageFault_of_headerFault {s t : State} (h : headerFault s = none) (hcfg : t.cfg = s.cfg)
    (hdesc : t.desc = headerDesc s) : imageFault t = none := by
  obtain ⟨-, -, hw, hh, hc, himg⟩ := headerFault_eq_none h
  obtain ⟨hw', hh', hc'⟩ := headerDesc_fields s
  have hdepth : (headerDesc s).depth.toNat = 8 := rfl
  simp only [imageFault, ite_some_eq_none_iff, hdesc, hcfg, hw', hh', hc', hdepth, himg]
  exact ⟨by omega, by omega, by omega, Bool.false_ne_true, trivial⟩

/-! ## One channel -/

section
variable {s t : State} {off n : Nat} {ws : List (Nat × Byte)}

theorem Reads.complete (h : Reads s off ws t) : Reads s off ws (complete t) :=
  ⟨h.cfg, h.contLen, h.cont, h.desc, h.img, h.cpos⟩

theorem Reads.selectChannel (h : Reads s off ws t) (c : Nat) : Reads s off ws (selectChannel c t) :=
  ⟨h.cfg, h.contLen, h.cont, h.desc, h.img, h.cpos⟩

theorem Loaded.complete (h : Loaded s n off t) : Loaded s n off (complete t) := ⟨h.trie, h.resN, h.bits⟩

theorem Loaded.payLen (h : Loaded s n off t) : t.payLen.toNat = payloadCount s.cont off := by
  have hbits := congrArg List.length h.bits
  rw [payloadBits_length, recordBits, length_flatMap_byteBits, Memory.readBytes_length] at hbits
  omega

theorem setTable_complete (s : State) : complete (setTable (complete s)) = complete (setTable s) := rfl

theorem buildTrie_complete (s : State) : complete (buildTrie (complete s)) = complete (buildTrie s) := rfl

theorem hostStore_resN (n : Nat) (s : State) : hostStore (complete s) 0 17 n = complete (setResN n s) := rfl

theorem exec_trie (s : State) : exec .trie s = .next (complete (buildTrie s)) := rfl

/-- `CHN.RD`, `CANON`, `TRIE` load the record at the cursor (rules R154, R177, R200). -/
theorem Reads.loadUnits (h : Reads s off ws t) (hcont : overCap s.cfg.contCap s.contLen.toNat = false)
    (hf : Machine.readFault s off = none) (hk : KraftValid (recordLengths s.cont off)) :
    runCommands [.chnRd, .canon, .trie] t =
      .next (Machine.complete (Machine.buildTrie (Machine.setTable (Machine.loadRecord t)))) := by
  have hread := exec_chnRd (s := t) (by rwa [h.cfg, h.contLen])
  rw [h.readFault, h.cpos, hf, orRaise_none, endCommand_ok] at hread
  have hlen : (Machine.complete (Machine.loadRecord t)).len = recordLengths s.cont off := h.loadRecord_len
  have hcanon := exec_canon_of_kraftValid (hlen ▸ hk : KraftValid (Machine.complete (Machine.loadRecord t)).len)
  rw [← Machine.setTable, setTable_complete] at hcanon
  have htrie := exec_trie (Machine.complete (Machine.setTable (Machine.loadRecord t)))
  rw [buildTrie_complete] at htrie
  rw [runCommands_cons hread, runCommands_cons hcanon, runCommands_cons htrie]
  rfl

/-- `DEC` of a loaded record (rule R183). -/
theorem Loaded.exec_dec (h : Loaded s n off t) (hres : overCap t.cfg.resCap n = false)
    (hpay : overCap t.cfg.payCap t.payLen.toNat = false) {rs : List Byte} {rest : List Bool}
    (hw : recordWalk s.cont n off = .ok (rs, rest)) :
    ∃ u, exec .dec t = .next (Machine.complete u) ∧
      u = { t with upPos := u.upPos, upBit := u.upBit, res := t.res.writeBytes 0 rs } := by
  obtain ⟨u, hu, hframe⟩ := h.decodeChannel_ok hw
  have hdec : decodeChannel t = decodeSymbols t.resN.toNat 0 (unpackInit t) := rfl
  exact ⟨u, by rw [Machine.exec_dec (h.resN ▸ hres) hpay, ← hdec, hu, endCommand_ok], hframe⟩

theorem exec_filtInv_channel {s : State} (hvalid : imageFault s = none) {c : Nat} (hc : c < s.desc.channels.toNat)
    (hresN : s.resN.toNat = s.desc.dims.n) (hres : overCap s.cfg.resCap s.desc.dims.n = false) :
    exec (.filtInv (BitVec.ofNat 8 c)) s = .next (complete (filterInverse s.desc.dims c (selectChannel c s))) := by
  have hn : s.desc.width.toNat * s.desc.height.toNat = s.desc.dims.n := rfl
  have hc' : (BitVec.ofNat 8 c).toNat = c := Nat.mod_eq_of_lt (hc.trans s.desc.channels.isLt)
  rw [exec_filtInv_eq _ _ (by rwa [hresN]), hvalid, hc', hn]
  simp only [if_neg (Nat.not_le.2 hc), hresN, ne_eq, not_true_eq_false, if_false, endCommand_ok, Machine.selectChannel]

/-- `FILT.INV` of the residuals of a record (rule R124). -/
theorem Reads.exec_filtInv (h : Reads s off ws t) (hh : headerFault s = none) {c : Nat} (hc : c < headerChannels s)
    (hresN : t.resN.toNat = (headerDesc s).dims.n) (hcap : overCap s.cfg.resCap (headerDesc s).dims.n = false)
    {rs : List Byte} (hlen : rs.length = (headerDesc s).dims.n) {m : Memory} (hres : t.res = m.writeBytes 0 rs) :
    ∃ u, exec (.filtInv (BitVec.ofNat 8 c)) t = .next u ∧
      Reads s off (ws ++ imageWrites (headerDesc s).dims [(c, rs)]) u ∧ u.status = .done := by
  obtain ⟨-, -, hchannels⟩ := headerDesc_fields s
  have hfilt := exec_filtInv_channel (imageFault_of_headerFault hh h.cfg h.desc) (c := c)
    (by rw [h.desc, hchannels]; exact hc) (by rw [h.desc, hresN]) (by rwa [h.desc, h.cfg])
  have hres' : (Machine.selectChannel c t).res = m.writeBytes 0 rs := hres
  rw [h.desc, filterInverse_decoded hlen c hres'] at hfilt
  exact ⟨_, hfilt, ((h.selectChannel c).writeImage _).complete, rfl⟩

/-- The unit commands of one channel write its samples (rule R215). -/
theorem Reads.channelUnits (h : Reads s off ws t) (hh : headerFault s = none) {c : Nat} (hc : c < headerChannels s)
    {rs : List Byte} {off' : Nat} (hr : recordAt s (headerDesc s).dims.n off = .ok (rs, off')) :
    ∃ u, decompressUnits (headerDesc s).dims.n (BitVec.ofNat 8 c) t = .next u ∧
      Reads s off' (ws ++ imageWrites (headerDesc s).dims [(c, rs)]) u ∧ u.status = .done := by
  obtain ⟨hf, hk, hcap, ⟨rest, hwalk⟩, rfl, hlen⟩ := recordAt_ok hr
  obtain ⟨hcont, -⟩ := headerFault_eq_none hh
  obtain ⟨-, hpaycap⟩ := readFault_eq_none_iff.1 hf
  have hload := h.loadUnits hcont hf hk
  have hstore := hostStore_resN (headerDesc s).dims.n (Machine.buildTrie (Machine.setTable (Machine.loadRecord t)))
  rw [← Machine.prepareRecord] at hstore
  have hprep := (h.prepareRecord hf (headerDesc s).dims.n).complete
  have hloaded := (h.loaded_prepareRecord (dims_n_lt (headerDesc s))).complete
  generalize Machine.complete (Machine.prepareRecord (headerDesc s).dims.n t) = v at *
  obtain ⟨u, hdec, hframe⟩ := hloaded.exec_dec (by rwa [hprep.cfg]) (by rwa [hprep.cfg, hloaded.payLen]) hwalk
  have hdecoded : Reads s (off + 260 + payloadCount s.cont off) ws (Machine.complete u) := by
    rw [hframe]
    exact ⟨hprep.cfg, hprep.contLen, hprep.cont, hprep.desc, hprep.img, hprep.cpos⟩
  obtain ⟨w, hfilt, hw⟩ := hdecoded.exec_filtInv hh hc (by rw [complete_resN, hframe]; exact hloaded.resN) hcap hlen
    (congrArg State.res hframe :)
  refine ⟨w, ?_, hw⟩
  rw [decompressUnits, hload]
  simp only
  rw [hstore, runCommands_cons hdec, runCommands_cons hfilt]
  rfl

/-! ## All channels -/

theorem decompressChannels_cons {c : Nat} {t u : State} (h : decompressUnits n (BitVec.ofNat 8 c) t = .next u)
    (cs : List Nat) : decompressChannels n (c :: cs) t = decompressChannels n cs u := by
  rw [decompressChannels, h]

theorem Reads.channelsUnits (h : Reads s off ws t) (hdone : t.status = .done) (hh : headerFault s = none) {cs : List Nat}
    (hcs : ∀ c ∈ cs, c < headerChannels s) {rss : List (List Byte)} {off' : Nat}
    (hr : recordsAt s (headerDesc s).dims.n cs off = .ok (rss, off')) :
    ∃ u, decompressChannels (headerDesc s).dims.n cs t = .next u ∧
      Reads s off' (ws ++ imageWrites (headerDesc s).dims (cs.zip rss)) u ∧ u.status = .done := by
  induction cs generalizing off ws t rss with
  | nil =>
    obtain ⟨rfl, rfl⟩ := Prod.mk.inj (Except.ok.inj hr)
    exact ⟨t, rfl, by rwa [List.zip_nil_left, imageWrites, List.flatMap_nil, List.append_nil], hdone⟩
  | cons c cs ih =>
    rw [List.forall_mem_cons] at hcs
    cases hc : recordAt s (headerDesc s).dims.n off with
    | error f => rw [recordsAt_cons_error hc] at hr; cases hr
    | ok p =>
      rw [recordsAt_cons_ok hc] at hr
      cases hrest : recordsAt s (headerDesc s).dims.n cs p.2 with
      | error e => rw [hrest] at hr; cases hr
      | ok q =>
        rw [hrest] at hr
        obtain ⟨rfl, rfl⟩ := Prod.mk.inj (Except.ok.inj hr)
        obtain ⟨u, hu, hread, hudone⟩ := h.channelUnits hh hcs.1 hc
        obtain ⟨v, hv, hreads, hvdone⟩ := ih hread hudone hcs.2 hrest
        refine ⟨v, by rw [decompressChannels_cons hu, hv], ?_, hvdone⟩
        rwa [List.append_assoc, imageWrites, imageWrites, ← List.flatMap_append] at hreads

end

theorem exec_hdrRd_of_headerFault {s : State} (h : headerFault s = none) : exec .hdrRd s = .next (complete (withHeader s)) := by
  rw [exec, execHdrRd, hdrRdBody_eq, h, orRaise_none, endCommand_ok]

/-- Settles O58: `DECOMPRESS` has read a valid header and records that decode (`decompressed_of_exec`), and the units of each
channel write the samples of its record (`Reads.channelUnits`): the same cells with the same values. -/
theorem unitCommandsDecompressAlike : Obligations.UnitCommandsDecompressAlike := by
  intro s t hexec hdone
  obtain ⟨hh, rss, off, hr, hdesc, hcpos, himg⟩ := decompressed_of_exec hexec hdone
  obtain ⟨hw, hheight, hc⟩ := headerDesc_fields s
  have hstart : Reads s 14 [] (withHeader s) := ⟨rfl, rfl, rfl, rfl, rfl, rfl⟩
  have hn : t.desc.width.toNat * t.desc.height.toNat = (headerDesc s).dims.n := by rw [hdesc]; rfl
  rw [containerRecords_eq] at hr
  obtain ⟨u, hu, hread, hudone⟩ := hstart.complete.channelsUnits rfl hh (fun c h => hc ▸ List.mem_range.1 h) hr
  refine ⟨_, u, exec_hdrRd_of_headerFault hh, ?_, hudone, hread.desc.trans hdesc.symm,
    BitVec.eq_of_toNat_eq (hread.cpos.trans hcpos.symm), fun a _ => ?_⟩
  · rw [hn, hdesc]
    exact hu
  · rw [hread.img, himg, ← hc]
    rfl

end Sys2Proof.Machine
end

section
/-! SUPPORT. The control commands and the packer's and unpacker's starts (rules R220, R221, R164, R172): the whole state each
leaves. -/

namespace Sys2Proof.Machine

theorem exec_nop (s : State) : exec .nop s = .next (complete s) := rfl

theorem exec_pkInit (s : State) : exec .pkInit s = .next (complete (packInit s)) := rfl

theorem exec_upInit (s : State) : exec .upInit s = .next (complete (unpackInit s)) := rfl

theorem exec_clr (s : State) : exec .clr s = .next (clearError s) := rfl

/-- Settles O14: each command is `complete` after its own update, and both updates are written out. -/
theorem nopAndInitCommandsComplete : Obligations.NopAndInitCommandsComplete := by
  intro s
  refine ⟨?_, ?_, ?_⟩
  · rw [exec_nop, complete]
  · rw [exec_pkInit, packInit, complete]
  · rw [exec_upInit, unpackInit, complete]

/-- `CLR` leaves every ephemeral bank at its reset value (rules R48, R221). -/
theorem ephemeralClear_clearError (s : State) : EphemeralClear (clearError s) :=
  { ephemeralClear_resetEphemeral s with }

@[simp] theorem Memory.scramble_cells (m : Memory) : m.scramble.cells = [] := rfl

/-- Settles O15: the registers and the ephemeral banks are those of `clearError`; the host-owned banks are none of the banks
`CLR` writes (`Writes.clearError`). -/
theorem clrReturnsToIdle : Obligations.ClrReturnsToIdle := by
  intro s
  have hw := Writes.clearError s
  have hdesc : (clearError s).desc = s.desc := hw.banks .desc (by decide)
  have himg : (clearError s).img = s.img := hw.banks .img (by decide)
  obtain ⟨hcontLen, hcont⟩ := hw.banks .cont (by decide)
  have hres : (clearError s).res.cells = [] := by rw [clearError_res, Memory.scramble_cells]
  have hpay : (clearError s).pay.cells = [] := by rw [clearError_pay, Memory.scramble_cells]
  exact ⟨clearError s, exec_clr s, clearError_status s, clearError_errKind s, clearError_errCause s, clearError_errCh s,
    clearError_errPos s, clearError_result s, clearError_cpos s, clearError_curch s, ephemeralClear_clearError s, hres, hpay,
    hdesc, himg, hcontLen, hcont, hw.own⟩

end Sys2Proof.Machine
end

section
/-! SUPPORT. Which causes each stage of a command can raise (rules R96, R253), and how every command ends: what `raise` leaves
(R240), that a failed command leaves nothing else (R243), and that every command ends (R272). -/

namespace Sys2Proof.Machine

open Claims (SameOwn errorClass raisableKinds)

/-! ## Stages that raise only listed causes -/

/-- If a stage raises, it is with one of the listed causes. -/
def RaisesIn {α : Type} (cs : List Cause) (r : Except Raise α) : Prop := ∀ e, r = .error e → e.cause ∈ cs

namespace RaisesIn
variable {α β : Type} {cs cs' : List Cause}

theorem ok {a : α} : RaisesIn cs (.ok a) := nofun

theorem error {c : Cause} {pos : Nat} {ch : BitVec 2} (hc : c ∈ cs := by decide) :
    RaisesIn cs (.error ⟨c, pos, ch⟩ : Except Raise α) := by
  rintro _ ⟨⟩; exact hc

theorem mono {r : Except Raise α} (h : RaisesIn cs' r) (hsub : cs' ⊆ cs := by decide) : RaisesIn cs r :=
  fun e he => hsub (h e he)

/-- The causes of a stage and of what follows it, among those of the whole. -/
theorem bind {r : Except Raise α} {f : α → Except Raise β} (hr : RaisesIn cs' r) (hf : ∀ a, RaisesIn cs (f a))
    (hsub : cs' ⊆ cs := by decide) : RaisesIn cs (r >>= f) := by
  cases r with
  | error e =>
    rintro _ ⟨⟩
    exact hsub (hr e rfl)
  | ok a => exact hf a

/-- A check raises its own cause; behind it the rest of the stage does. -/
theorem check {p : Prop} [Decidable p] {c : Cause} {pos : Nat} {ch : BitVec 2} {r : Except Raise α} (h : RaisesIn cs r)
    (hc : c ∈ cs := by decide) : RaisesIn cs (if p then .error ⟨c, pos, ch⟩ else r) := by
  split
  · exact error hc
  · exact h

end RaisesIn

section
variable (s : State)

/-! ## Checks -/

/-- The causes of `ValidateImage()` (rule R190). -/
def imageCauses : List Cause := [.depth, .channels, .empty, .capImg]

theorem validateImage_raises : RaisesIn imageCauses (validateImage s) :=
  .check <| .check <| .check <| .check .ok

theorem checkRes_raises : RaisesIn [.capRes] (checkRes s) := .check .ok

theorem checkPay_raises : RaisesIn [.capPay] (checkPay s) := .check .ok

theorem checkCont_raises : RaisesIn [.capCont] (checkCont s) := .check .ok

theorem checkResOut_raises (d : Dims) : RaisesIn [.capRes] (checkResOut d s) := .check .ok

theorem checkChannel_raises (d : Dims) (c : Byte) : RaisesIn [.badChannel] (checkChannel d c s) := .check .ok

theorem checkResSize_raises (d : Dims) : RaisesIn [.sizeMismatch] (checkResSize d s) := .check .ok

/-! ## The filter, the histogram and the table -/

theorem filtFwdBody_raises (c : Byte) :
    RaisesIn (imageCauses ++ [.badChannel, .capRes]) (filtFwdBody c s) :=
  (validateImage_raises s).bind fun d => (checkChannel_raises s d c).bind fun _ => (checkResOut_raises s d).bind fun _ => .ok

theorem filtInvBody_raises (c : Byte) :
    RaisesIn (imageCauses ++ [.capRes, .badChannel, .sizeMismatch]) (filtInvBody c s) :=
  (checkRes_raises s).bind fun _ => (validateImage_raises s).bind fun d => (checkChannel_raises s d c).bind fun _ =>
    (checkResSize_raises s d).bind fun _ => .ok

theorem histBody_raises : RaisesIn [.capRes] (histBody s) := (checkRes_raises s).bind fun _ => .ok

theorem buildTable_raises : RaisesIn [.badLengthTable] (buildTable s) := .check .ok

/-! ## The packer -/

theorem packBit_raises (b : Bool) : RaisesIn [.capPay] (packBit b s) := by
  rw [packBit_eq]
  split
  · exact .ok
  · split
    · exact .ok
    · exact .error

theorem packFin_raises : RaisesIn [.capPay] (packFin s) := by
  rw [packFin_eq]
  split
  · exact .ok
  · split
    · exact .ok
    · exact .error

theorem packBits_raises (bs : List Bool) : RaisesIn [.capPay] (packBits bs s) := by
  induction bs generalizing s with
  | nil => exact .ok
  | cons b bs ih => rw [packBits_cons]; exact (packBit_raises s b).bind ih

theorem putSymbol_raises (v : Byte) : RaisesIn [.noCode, .capPay] (putSymbol v s) := .check (packBits_raises s _).mono

theorem putSymbols_raises (vs : List Byte) : RaisesIn [.noCode, .capPay] (putSymbols vs s) := by
  induction vs generalizing s with
  | nil => exact .ok
  | cons v vs ih => rw [putSymbols_cons]; exact (putSymbol_raises s v).bind ih

theorem packBody_raises : RaisesIn [.capRes, .noCode, .capPay] (packBody s) :=
  (checkRes_raises s).bind fun _ => (putSymbols_raises (packInit s) _).bind fun t => (packFin_raises t).mono

/-! ## The unpacker and the decoder -/

theorem getBit_raises (k : Nat) : RaisesIn [.streamExhausted] (getBit k s) := .check .ok

theorem upBitBody_raises : RaisesIn [.capPay, .streamExhausted] (upBitBody s) :=
  (checkPay_raises s).bind fun _ => (getBit_raises s 0).bind fun _ => .ok

theorem decodeFrom_raises (fuel k node : Nat) :
    RaisesIn [.streamExhausted, .corruptCodePath] (decodeFrom fuel k node s) := by
  induction fuel generalizing node s with
  | zero =>
    by_cases hmark : (trieNode s.trie node).sym = NONE
    · rw [decodeFrom_zero hmark]; exact .error
    · rw [decodeFrom_marked hmark]; exact .ok
  | succ fuel ih =>
    by_cases hmark : (trieNode s.trie node).sym = NONE
    · rw [decodeFrom_succ hmark]
      exact (getBit_raises s k).bind fun p => .check (ih p.2 _)
    · rw [decodeFrom_marked hmark]; exact .ok

theorem decodeSymbol_raises (k : Nat) : RaisesIn [.streamExhausted, .corruptCodePath] (decodeSymbol k s) :=
  decodeFrom_raises s _ k 0

theorem trSymBody_raises : RaisesIn [.capPay, .streamExhausted, .corruptCodePath] (trSymBody s) :=
  (checkPay_raises s).bind fun _ => (decodeSymbol_raises s 0).bind fun _ => .ok

theorem decodeSymbols_raises (n k : Nat) : RaisesIn [.streamExhausted, .corruptCodePath] (decodeSymbols n k s) := by
  induction n generalizing s k with
  | zero => exact .ok
  | succ n ih => rw [decodeSymbols_succ]; exact (decodeSymbol_raises s k).bind fun _ => ih _ _

theorem decodeChannel_raises : RaisesIn [.streamExhausted, .corruptCodePath] (decodeChannel s) :=
  decodeSymbols_raises (unpackInit s) _ 0

theorem decBody_raises : RaisesIn [.capRes, .capPay, .streamExhausted, .corruptCodePath] (decBody s) :=
  (checkRes_raises s).bind fun _ => (checkPay_raises s).bind fun _ => (decodeChannel_raises s).mono

/-! ## The container -/

theorem contRead_raises (n : Nat) (c : Cause) : RaisesIn [c] (contRead n c s) := .check .ok (List.mem_singleton_self c)

theorem contWrite_raises (bs : List Byte) : RaisesIn [.capCont] (contWrite bs s) := .check .ok

theorem writeHeader_raises : RaisesIn [.capCont] (writeHeader s) :=
  (contWrite_raises _ _).bind fun s => (contWrite_raises s _).bind fun s => (contWrite_raises s _).bind fun s =>
    (contWrite_raises s _).bind fun s => contWrite_raises s _

theorem writeChannel_raises : RaisesIn [.payloadTooLarge, .capCont] (writeChannel s) :=
  .check <| (contWrite_raises s _).bind fun s => (contWrite_raises s _).bind fun s => (contWrite_raises s _).mono

theorem hdrWrBody_raises : RaisesIn (.capCont :: imageCauses) (hdrWrBody s) :=
  (validateImage_raises s).bind fun _ => (writeHeader_raises s).bind fun _ => .ok

theorem chnWrBody_raises : RaisesIn [.capPay, .payloadTooLarge, .capCont] (chnWrBody s) :=
  (checkPay_raises s).bind fun _ => (writeChannel_raises s).bind fun _ => .ok

theorem readHeaderFields_raises :
    RaisesIn [.hdrMagic, .badMagic, .hdrWidth, .hdrHeight, .hdrMaxval, .hdrChannels] (readHeaderFields s) :=
  (contRead_raises _ _ _).bind fun p => .check <| (contRead_raises p.2 _ _).bind fun p =>
    (contRead_raises p.2 _ _).bind fun p => (contRead_raises p.2 _ _).bind fun p => (contRead_raises p.2 _ _).bind fun _ => .ok

theorem acceptHeader_raises (hd : Header) :
    RaisesIn [.zeroWidth, .zeroHeight, .badChannels, .capImg] (acceptHeader hd s) :=
  .check <| .check <| .check <| .check .ok

/-- The causes of `ReadHeader()` (rule R197). -/
def headerCauses : List Cause :=
  [.hdrMagic, .badMagic, .hdrWidth, .hdrHeight, .hdrMaxval, .hdrChannels, .zeroWidth, .zeroHeight, .badChannels, .capImg]

theorem readHeader_raises : RaisesIn headerCauses (readHeader s) :=
  (readHeaderFields_raises s).bind fun p => (acceptHeader_raises p.2 p.1).mono

theorem hdrRdBody_raises : RaisesIn (.capCont :: headerCauses) (hdrRdBody s) :=
  (checkCont_raises s).bind fun _ => (readHeader_raises s).mono

theorem storePayload_raises (bs : List Byte) : RaisesIn [.capPay] (storePayload bs s) := .check .ok

theorem readChannel_raises : RaisesIn [.lengths, .payloadCount, .payload, .capPay] (readChannel s) :=
  (contRead_raises s _ _).bind fun _ => (contRead_raises _ _ _).bind fun p => (contRead_raises p.2 _ _).bind fun p =>
    (storePayload_raises p.2 _).mono

theorem chnRdBody_raises : RaisesIn [.capCont, .lengths, .payloadCount, .payload, .capPay] (chnRdBody s) :=
  (checkCont_raises s).bind fun _ => (readChannel_raises s).mono

/-! ## The whole-call commands -/

theorem forChannels_raises {cs : List Cause} {stage : Nat → State → Except Raise State}
    (hstage : ∀ c s, RaisesIn cs (stage c s)) (channels : List Nat) : RaisesIn cs (forChannels stage channels s) := by
  induction channels generalizing s with
  | nil => exact .ok
  | cons c channels ih => rw [forChannels_cons]; exact (hstage c s).bind ih (List.Subset.refl cs)

/-- The causes of `DecompressChannel(c)` (rule R208). -/
def recordCauses : List Cause :=
  [.lengths, .payloadCount, .payload, .capPay, .badLengthTable, .capRes, .streamExhausted, .corruptCodePath]

theorem decompressChannel_raises (d : Dims) (c : Nat) : RaisesIn recordCauses (decompressChannel d c s) :=
  (readChannel_raises _).bind fun s => (buildTable_raises s).bind fun s => (checkResOut_raises (buildTrie s) d).bind fun _ =>
    (decodeChannel_raises _).bind fun _ => .ok

theorem decompressBody_raises : RaisesIn (.capCont :: headerCauses ++ recordCauses) (decompressBody s) :=
  (checkCont_raises _).bind fun _ => (readHeader_raises _).bind fun t =>
    (forChannels_raises t (fun c u => decompressChannel_raises u t.desc.dims c) _).bind fun _ => .ok

end

section
variable {s : State}

/-! `COMPRESS` builds its own lengths, so its stages `CANON` and `PACK` cannot fail on them (rules R142, R143): its causes are
those of `compressFault`, which `compressBody_answers` finds to be the first check that fails. -/

theorem imageFault_cause {f : Cause × Nat} (h : imageFault s = some f) : f.1 ∈ imageCauses :=
  validateImage_raises s ⟨f.1, f.2, s.curch⟩ (by rw [validateImage_eq, h])

/-- The causes of `CompressChannel(c)` (rule R202). -/
def channelCauses : List Cause := [.capRes, .capPay, .payloadTooLarge, .capCont]

theorem channelFault_cause {c off : Nat} {f : Cause × Nat} (h : channelFault s c off = some f) : f.1 ∈ channelCauses := by
  simp only [channelFault] at h
  split_ifs at h
  · cases h; simp [channelCauses]
  · cases h; simp [channelCauses]
  · cases h; simp [channelCauses]
  · obtain ⟨pos, -, rfl⟩ := Option.map_eq_some_iff.1 h
    simp [channelCauses]

theorem channelsFault_cause {cs : List Nat} {off : Nat} {e : Raise} (h : channelsFault s cs off = some e) :
    e.cause ∈ channelCauses := by
  induction cs generalizing off with
  | nil => cases h
  | cons c cs ih =>
    rw [channelsFault_cons, Option.or_eq_some_iff] at h
    obtain h | ⟨-, h⟩ := h
    · obtain ⟨f, hf, rfl⟩ := Option.map_eq_some_iff.1 h
      exact channelFault_cause hf
    · exact ih h

theorem compressFault_cause {e : Raise} (h : compressFault s = some e) :
    e.cause ∈ imageCauses ++ channelCauses := by
  rw [List.mem_append]
  cases himg : imageFault s with
  | some f =>
    rw [compressFault, himg] at h
    obtain rfl := Option.some.inj h
    exact .inl (imageFault_cause himg)
  | none =>
    rw [compressFault_eq himg, Option.or_eq_some_iff] at h
    obtain h | ⟨-, h⟩ := h
    · obtain ⟨pos, -, rfl⟩ := Option.map_eq_some_iff.1 h
      exact .inr (by decide : Cause.capCont ∈ channelCauses)
    · exact .inr (channelsFault_cause h)

theorem compressBody_raises (s : State) : RaisesIn (imageCauses ++ channelCauses) (compressBody s) := by
  intro e he
  have hanswers := compressBody_answers s
  cases hfault : compressFault s with
  | none =>
    rw [hfault] at hanswers
    obtain ⟨t, ht, -⟩ := hanswers
    rw [ht] at he
    cases he
  | some f =>
    rw [hfault] at hanswers
    have hf : compressBody s = .error f := hanswers
    obtain rfl := Except.error.inj (hf.symm.trans he)
    exact compressFault_cause hfault

end

/-! ## How every command ends -/

/-- The causes a command's checks can raise (`exec_ends`), finer than the kinds of rule R253. -/
def raisableCauses : Instr → List Cause
  | .compress => imageCauses ++ channelCauses
  | .decompress => .capCont :: headerCauses ++ recordCauses
  | .filtFwd _ => imageCauses ++ [.badChannel, .capRes]
  | .filtInv _ => imageCauses ++ [.capRes, .badChannel, .sizeMismatch]
  | .hist => [.capRes]
  | .canon => [.badLengthTable]
  | .pkPut _ => [.noCode, .capPay]
  | .pkFin => [.capPay]
  | .pack => [.capRes, .noCode, .capPay]
  | .upBit => [.capPay, .streamExhausted]
  | .trSym => [.capPay, .streamExhausted, .corruptCodePath]
  | .dec => [.capRes, .capPay, .streamExhausted, .corruptCodePath]
  | .hdrWr => .capCont :: imageCauses
  | .chnWr => [.capPay, .payloadTooLarge, .capCont]
  | .hdrRd => .capCont :: headerCauses
  | .chnRd => [.capCont, .lengths, .payloadCount, .payload, .capPay]
  | .nop | .clr | .huff | .pkInit | .upInit | .trie => []

/-- The causes of a command lie in its row of rule R253, and none is that of an illegal word. -/
theorem raisableCauses_kinds (i : Instr) :
    ∀ c ∈ raisableCauses i, c.kind.toNat ∈ raisableKinds i ∧ c.code ≠ 0x60 ∧ c.code ≠ 0x61 := by
  cases i <;> simp only [raisableCauses, raisableKinds] <;> decide

/-- Every command but `CLR` ends as its body answers: completed, or with a raise of its class, of one of its causes, on the
state it started from (rules R93, R243). -/
theorem exec_ends {i : Instr} (hi : i ≠ .clr) (s : State) :
    ∃ r, exec i s = .next (endCommand (errorClass i) s r) ∧ RaisesIn (raisableCauses i) r := by
  cases i with
  | clr => exact absurd rfl hi
  | nop => exact ⟨.ok s, rfl, .ok⟩
  | huff => exact ⟨.ok (buildLengths s), rfl, .ok⟩
  | pkInit => exact ⟨.ok (packInit s), rfl, .ok⟩
  | upInit => exact ⟨.ok (unpackInit s), rfl, .ok⟩
  | trie => exact ⟨.ok (buildTrie s), rfl, .ok⟩
  | compress => exact ⟨compressBody s, rfl, compressBody_raises s⟩
  | decompress => exact ⟨decompressBody s, rfl, decompressBody_raises s⟩
  | filtFwd c => exact ⟨filtFwdBody c { s with curch := c.setWidth 2 }, rfl, filtFwdBody_raises _ c⟩
  | filtInv c => exact ⟨filtInvBody c { s with curch := c.setWidth 2 }, rfl, filtInvBody_raises _ c⟩
  | hist => exact ⟨histBody s, rfl, histBody_raises s⟩
  | canon => exact ⟨buildTable s, rfl, buildTable_raises s⟩
  | pkPut v => exact ⟨putSymbol v s, rfl, putSymbol_raises s v⟩
  | pkFin => exact ⟨packFin s, rfl, packFin_raises s⟩
  | pack => exact ⟨packBody s, rfl, packBody_raises s⟩
  | upBit => exact ⟨upBitBody s, rfl, upBitBody_raises s⟩
  | trSym => exact ⟨trSymBody s, rfl, trSymBody_raises s⟩
  | dec => exact ⟨decBody s, rfl, decBody_raises s⟩
  | hdrWr => exact ⟨hdrWrBody s, rfl, hdrWrBody_raises s⟩
  | chnWr => exact ⟨chnWrBody s, rfl, chnWrBody_raises s⟩
  | hdrRd => exact ⟨hdrRdBody s, rfl, hdrRdBody_raises s⟩
  | chnRd => exact ⟨chnRdBody s, rfl, chnRdBody_raises s⟩

/-- A command that ends in ERROR has left the raise of its class, of one of its causes, on the state it started from. -/
theorem exec_error {i : Instr} {s t : State} (h : exec i s = .next t) (herror : t.status = .error) :
    ∃ e : Raise, e.cause ∈ raisableCauses i ∧ t = raise (errorClass i) e s := by
  by_cases hi : i = .clr
  · rw [hi, exec_clr] at h
    obtain rfl := Host.Outcome.next.inj h
    cases herror
  · obtain ⟨r, hr, hcauses⟩ := exec_ends hi s
    obtain rfl := Host.Outcome.next.inj (hr.symm.trans h)
    obtain ⟨e, rfl⟩ := (endCommand_status _ _ _).1 herror
    exact ⟨e, hcauses e rfl, rfl⟩

/-! ## The obligations on errors and on the end of a command -/

/-- Settles O17: `exec_error`. -/
theorem errorsLeaveTheRaisedState : Obligations.ErrorsLeaveTheRaisedState := by
  intro i s t h herror
  obtain ⟨⟨c, pos, ch⟩, -, ht⟩ := exec_error h herror
  exact ⟨c, pos, ch, ht⟩

/-- Settles O18: the cause is one of the command's (`exec_error`), and those lie in its row (`raisableCauses_kinds`). -/
theorem commandsRaiseOnlyTheirKinds : Obligations.CommandsRaiseOnlyTheirKinds := by
  intro i s t h herror
  obtain ⟨e, hcause, rfl⟩ := exec_error h herror
  rw [raise_errKind, raise_errCause]
  exact raisableCauses_kinds i e.cause hcause

/-- Settles O19: `CLR` ends in IDLE, and the body of every other command answers or raises (`exec_ends`). -/
theorem everyCommandEnds : Obligations.EveryCommandEnds := by
  intro i s
  by_cases hi : i = .clr
  · subst hi
    exact ⟨_, exec_clr s, clearError_curch s, .inr (.inr ⟨rfl, clearError_status s⟩), fun _ => clearError_status s⟩
  · obtain ⟨r, hr, -⟩ := exec_ends hi s
    refine ⟨_, hr, ?_⟩
    cases r with
    | ok t => exact ⟨complete_curch t, .inl (complete_status t), fun h => absurd h hi⟩
    | error e => exact ⟨raise_curch _ e s, .inr (.inl (raise_status _ e s)), fun h => absurd h hi⟩

theorem raise_sameOwn (cls : ErrClass) (r : Raise) (s : State) : SameOwn s (raise cls r s) :=
  ⟨raise_cfg cls r s, raise_port cls r s, raise_running cls r s, raise_portData cls r s, raise_busyReads cls r s⟩

/-- Settles O16: what every class leaves alike, then the output bank of each class. -/
theorem raiseRecordsAndClears : Obligations.RaiseRecordsAndClears := by
  intro cls c pos s
  have hkind : (raise cls (s.failure c pos) s).errKind.toNat = c.code.toNat / 16 := by
    obtain ⟨-, -, hnibble⟩ := c.kind_legal
    rw [raise_errKind, hnibble]
    rfl
  have hpos : (raise cls (s.failure c pos) s).errPos.toNat = pos % 2 ^ 64 := by
    rw [raise_errPos]
    exact BitVec.toNat_ofNat pos 64
  have hres : (raise cls (s.failure c pos) s).res.cells = [] := by rw [raise_res, Memory.scramble_cells]
  have hpay : (raise cls (s.failure c pos) s).pay.cells = [] := by rw [raise_pay, Memory.scramble_cells]
  refine ⟨raise_status .., raise_errCause .., hkind, raise_errCh .., hpos, raise_clear .., hres, hpay, raise_cpos ..,
    raise_curch .., raise_result .., raise_sameOwn .., ?_, ?_, ?_⟩
  · rintro rfl
    exact ⟨raise_cw_contLen .., by rw [raise_cw_cont, Memory.scramble_cells], raise_cw_desc .., raise_cw_img ..⟩
  · rintro rfl
    exact ⟨raise_iw_desc .., by rw [raise_iw_img, Memory.scramble_cells], raise_iw_contLen .., raise_iw_cont ..⟩
  · rintro rfl
    exact ⟨raise_e_contLen .., raise_e_cont .., raise_e_desc .., raise_e_img ..⟩

end Sys2Proof.Machine
end

section
/-! SUPPORT. Hardware reset (rules R49, R260): the registers and memories it leaves, whatever the state before. -/

namespace Sys2Proof.Machine

theorem step_reset (s : State) (rest : List HostEvent) :
    step { s with port := .reset :: rest } = .next (hardwareReset { s with port := rest }) := rfl

theorem hardwareReset_clear (s : State) : EphemeralClear (hardwareReset s) :=
  { resetWith_clear s.cfg with }

theorem hardwareReset_memories (s : State) :
    (hardwareReset s).img.cells = [] ∧ (hardwareReset s).cont.cells = [] ∧ (hardwareReset s).res.cells = [] ∧
      (hardwareReset s).pay.cells = [] := ⟨rfl, rfl, rfl, rfl⟩

/-- Settles O9: hardware reset leaves the registers of `State.resetWith`, so none of them depends on the state before. -/
theorem hardwareResetGivesResetValues : Obligations.HardwareResetGivesResetValues := by
  intro s rest
  exact ⟨_, step_reset s rest, rfl, rfl, rfl, rfl, rfl, rfl, rfl, rfl, rfl, rfl, hardwareReset_clear _, rfl, rfl, rfl,
    hardwareReset_memories _⟩

end Sys2Proof.Machine
end
